-- ==== Sys2Proof/Word.lean ====
section
/-! DEFINITION. The machine's word types (00_scope.md rules R7, R8; 30_encoding.md rules R70 to R72). -/

namespace Sys2Proof

/-- An 8-bit value: a memory cell, a general register, a timer, RAND. -/
abbrev Byte := BitVec 8

/-- A 16-bit value: an instruction word (R70), `I` (R25), `PC` (R26), a stack slot (R27). -/
abbrev Word := BitVec 16

/-- A 12-bit absolute address, the field `nnn` (R71, R72). -/
abbrev Addr := BitVec 12

/-- A general register's index, the fields `x` and `y` (R22, R71). -/
abbrev Reg := Fin 16

/-- The index of the register that is also the flag register VF (R23; `FLAG` of R5). -/
abbrev flagReg : Reg := 15

end Sys2Proof
end

