-- ==== Sys2Proof/Syntax.lean ====
section
/-! DEFINITION. The instructions: one constructor of `Instr` per row of spec/opcode_table.json (00_scope.md rule R4;
30_encoding.md rule R76), the instruction kinds, and the decoder's fields (R71). -/

namespace Sys2Proof

/-- An instruction with the fields its row uses (R76). The bits that `clearScreen` and `ret` ignore (R75, R81) are no
operand. -/
inductive Instr where
  | clearScreen
  | ret
  | jump (nnn : Addr)
  | call (nnn : Addr)
  | skipEqImm (x : Reg) (kk : Byte)
  | skipNeImm (x : Reg) (kk : Byte)
  | loadImm (x : Reg) (kk : Byte)
  | addImm (x : Reg) (kk : Byte)
  | copy (x y : Reg)
  | and (x y : Reg)
  | addCarry (x y : Reg)
  | subFlag (x y : Reg)
  | loadIndex (nnn : Addr)
  | randomAnd (x : Reg) (kk : Byte)
  | draw (x y : Reg) (n : Fin 16)
  | skipKeyPressed (x : Reg)
  | skipKeyNotPressed (x : Reg)
  | getDelay (x : Reg)
  | setDelay (x : Reg)
  | setSound (x : Reg)
  | fontAddress (x : Reg)
  | bcdStore (x : Reg)
  | regLoad (x : Reg)
  deriving DecidableEq, Repr

/-- The 23 supported kinds of R4 (R73's `kind`; Unsupported is `none` of `Option Kind`). -/
inductive Kind where
  | clearScreen | ret | jump | call
  | skipEqImm | skipNeImm | loadImm | addImm
  | copy | and | addCarry | subFlag
  | loadIndex | randomAnd | draw
  | skipKeyPressed | skipKeyNotPressed
  | getDelay | setDelay | setSound
  | fontAddress | bcdStore | regLoad
  deriving DecidableEq, Repr

/-- The fields the decoder extracts from every word, all at once (R71, R73). -/
structure Fields where
  x : Reg
  y : Reg
  n : Fin 16
  kk : Byte
  nnn : Addr
  deriving DecidableEq, Repr

/-- One row of R76's opcode map: a word is of `kind` when its bits under `mask` are `pattern`. -/
structure OpcodeRow where
  kind : Kind
  pattern : Word
  mask : Word
  deriving DecidableEq, Repr

/-- Why a byte sequence gives no instruction: an unsupported word (R79), or fewer than two bytes (R53). -/
inductive DecodeError where
  | unsupported (w : Word)
  | truncated
  deriving DecidableEq, Repr

end Sys2Proof
end

