-- ==== Sys2Proof/WellFormed.lean ====
section
/-! DEFINITION. When written operands make an instruction (30_encoding.md rules R72, R82): a register index, a row count
and an immediate must fit their fields. `Instr`'s own types admit exactly the values that fit, so every term of `Instr`
is well formed; the checks are on the numbers a line of assembly gives. -/

namespace Sys2Proof

/-- The operands of a line of the spec's assembly (R82) as plain numbers, before they are known to fit. -/
structure RawOperands where
  x : Nat := 0
  y : Nat := 0
  n : Nat := 0
  kk : Nat := 0
  nnn : Nat := 0
  deriving DecidableEq, Repr

/-- R72's ranges: `x`, `y` and `n` are 0..15, `kk` is 0..255, `nnn` is 0..4095. -/
def RawOperands.fit (o : RawOperands) : Bool :=
  o.x < 16 && o.y < 16 && o.n < 16 && o.kk < 256 && o.nnn < 4096

/-- An instruction's operands as numbers; a field its row does not use is 0. -/
def Instr.operands : Instr → RawOperands
  | .clearScreen | .ret => {}
  | .jump nnn | .call nnn | .loadIndex nnn => { nnn := nnn.toNat }
  | .skipEqImm x kk | .skipNeImm x kk | .loadImm x kk | .addImm x kk | .randomAnd x kk => { x := x, kk := kk.toNat }
  | .copy x y | .and x y | .addCarry x y | .subFlag x y => { x := x, y := y }
  | .draw x y n => { x := x, y := y, n := n }
  | .skipKeyPressed x | .skipKeyNotPressed x | .getDelay x | .setDelay x | .setSound x
  | .fontAddress x | .bcdStore x | .regLoad x => { x := x }

/-- An instruction is well formed when its operands fit their fields. -/
def Instr.wellFormed (i : Instr) : Bool := i.operands.fit

end Sys2Proof
end

