-- ==== Sys2Proof/Decode.lean ====
section
/-! DEFINITION. The instruction_decoder block (30_encoding.md): a total function from a 16-bit word to a kind and fields,
R76's opcode map as a table, and R83's encoder. -/

namespace Sys2Proof

/-- The family nibble `f = w[15:12]` (R71). -/
def family (w : Word) : BitVec 4 := w.extractLsb' 12 4

/-- The fields of every word, supported or not (R71, R73): unsigned, taken straight from their bits (R72). -/
def fields (w : Word) : Fields where
  x := (w.extractLsb' 8 4).toFin
  y := (w.extractLsb' 4 4).toFin
  n := (w.extractLsb' 0 4).toFin
  kk := w.extractLsb' 0 8
  nnn := w.extractLsb' 0 12

/-- Family 0x0, selected by the low byte alone (R74, R75). -/
def kindFamily0 (kk : Byte) : Option Kind :=
  if kk = 0xE0#8 then some .clearScreen
  else if kk = 0xEE#8 then some .ret
  else none

/-- Family 0x8, selected by the low nibble (R74). -/
def kindFamily8 (n : Fin 16) : Option Kind :=
  if n = 0 then some .copy
  else if n = 2 then some .and
  else if n = 4 then some .addCarry
  else if n = 5 then some .subFlag
  else none

/-- Family 0xE, selected by the low byte (R74). -/
def kindFamilyE (kk : Byte) : Option Kind :=
  if kk = 0x9E#8 then some .skipKeyPressed
  else if kk = 0xA1#8 then some .skipKeyNotPressed
  else none

/-- Family 0xF, selected by the low byte (R74). -/
def kindFamilyF (kk : Byte) : Option Kind :=
  if kk = 0x07#8 then some .getDelay
  else if kk = 0x15#8 then some .setDelay
  else if kk = 0x18#8 then some .setSound
  else if kk = 0x29#8 then some .fontAddress
  else if kk = 0x33#8 then some .bcdStore
  else if kk = 0x65#8 then some .regLoad
  else none

/-- The kind of a word, R77's case analysis; `none` is Unsupported (R79). The selector values are the spec's, from
general knowledge (D1): notes/assumptions/1.md. -/
def kindOf (w : Word) : Option Kind :=
  match (family w).toNat with
  | 0x0 => kindFamily0 (fields w).kk
  | 0x1 => some .jump
  | 0x2 => some .call
  | 0x3 => some .skipEqImm
  | 0x4 => some .skipNeImm
  | 0x6 => some .loadImm
  | 0x7 => some .addImm
  | 0x8 => kindFamily8 (fields w).n
  | 0xA => some .loadIndex
  | 0xC => some .randomAnd
  | 0xD => some .draw
  | 0xE => kindFamilyE (fields w).kk
  | 0xF => kindFamilyF (fields w).kk
  | _ => none

/-- A kind with the fields its row uses (R76). -/
def Kind.instr (k : Kind) (f : Fields) : Instr :=
  match k with
  | .clearScreen => .clearScreen
  | .ret => .ret
  | .jump => .jump f.nnn
  | .call => .call f.nnn
  | .skipEqImm => .skipEqImm f.x f.kk
  | .skipNeImm => .skipNeImm f.x f.kk
  | .loadImm => .loadImm f.x f.kk
  | .addImm => .addImm f.x f.kk
  | .copy => .copy f.x f.y
  | .and => .and f.x f.y
  | .addCarry => .addCarry f.x f.y
  | .subFlag => .subFlag f.x f.y
  | .loadIndex => .loadIndex f.nnn
  | .randomAnd => .randomAnd f.x f.kk
  | .draw => .draw f.x f.y f.n
  | .skipKeyPressed => .skipKeyPressed f.x
  | .skipKeyNotPressed => .skipKeyNotPressed f.x
  | .getDelay => .getDelay f.x
  | .setDelay => .setDelay f.x
  | .setSound => .setSound f.x
  | .fontAddress => .fontAddress f.x
  | .bcdStore => .bcdStore f.x
  | .regLoad => .regLoad f.x

/-- The decoder (R73, R77): pure, total over all 65536 words; `none` where the word is Unsupported. -/
def decode (w : Word) : Option Instr := (kindOf w).map fun k => k.instr (fields w)

/-- An instruction from bytes as memory holds them, the byte at the lower address first and holding bits 15..8 (R53),
with the bytes that follow it. -/
def decodeBytes : List Byte → Except DecodeError (Instr × List Byte)
  | hi :: lo :: rest =>
    match decode (hi ++ lo) with
    | some i => .ok (i, rest)
    | none => .error (.unsupported (hi ++ lo))
  | _ => .error .truncated

/-- An instruction's kind (R73). -/
def Instr.kind : Instr → Kind
  | .clearScreen => .clearScreen
  | .ret => .ret
  | .jump _ => .jump
  | .call _ => .call
  | .skipEqImm _ _ => .skipEqImm
  | .skipNeImm _ _ => .skipNeImm
  | .loadImm _ _ => .loadImm
  | .addImm _ _ => .addImm
  | .copy _ _ => .copy
  | .and _ _ => .and
  | .addCarry _ _ => .addCarry
  | .subFlag _ _ => .subFlag
  | .loadIndex _ => .loadIndex
  | .randomAnd _ _ => .randomAnd
  | .draw _ _ _ => .draw
  | .skipKeyPressed _ => .skipKeyPressed
  | .skipKeyNotPressed _ => .skipKeyNotPressed
  | .getDelay _ => .getDelay
  | .setDelay _ => .setDelay
  | .setSound _ => .setSound
  | .fontAddress _ => .fontAddress
  | .bcdStore _ => .bcdStore
  | .regLoad _ => .regLoad

/-- R76's opcode map, rows in the table's order: clear-screen to add-imm. -/
def opcodeMapLow : List OpcodeRow :=
  [⟨.clearScreen, 0x00E0#16, 0xF0FF#16⟩, ⟨.ret, 0x00EE#16, 0xF0FF#16⟩, ⟨.jump, 0x1000#16, 0xF000#16⟩,
   ⟨.call, 0x2000#16, 0xF000#16⟩, ⟨.skipEqImm, 0x3000#16, 0xF000#16⟩, ⟨.skipNeImm, 0x4000#16, 0xF000#16⟩,
   ⟨.loadImm, 0x6000#16, 0xF000#16⟩, ⟨.addImm, 0x7000#16, 0xF000#16⟩]

/-- R76's opcode map: copy to draw. -/
def opcodeMapMid : List OpcodeRow :=
  [⟨.copy, 0x8000#16, 0xF00F#16⟩, ⟨.and, 0x8002#16, 0xF00F#16⟩, ⟨.addCarry, 0x8004#16, 0xF00F#16⟩,
   ⟨.subFlag, 0x8005#16, 0xF00F#16⟩, ⟨.loadIndex, 0xA000#16, 0xF000#16⟩, ⟨.randomAnd, 0xC000#16, 0xF000#16⟩,
   ⟨.draw, 0xD000#16, 0xF000#16⟩]

/-- R76's opcode map: skip-key-pressed to reg-load. -/
def opcodeMapHigh : List OpcodeRow :=
  [⟨.skipKeyPressed, 0xE09E#16, 0xF0FF#16⟩, ⟨.skipKeyNotPressed, 0xE0A1#16, 0xF0FF#16⟩,
   ⟨.getDelay, 0xF007#16, 0xF0FF#16⟩, ⟨.setDelay, 0xF015#16, 0xF0FF#16⟩, ⟨.setSound, 0xF018#16, 0xF0FF#16⟩,
   ⟨.fontAddress, 0xF029#16, 0xF0FF#16⟩, ⟨.bcdStore, 0xF033#16, 0xF0FF#16⟩, ⟨.regLoad, 0xF065#16, 0xF0FF#16⟩]

/-- R76's opcode map, one row per kind. -/
def opcodeMap : List OpcodeRow := opcodeMapLow ++ opcodeMapMid ++ opcodeMapHigh

/-- A word lies in a row when its bits under the mask are the row's pattern (R76). -/
def OpcodeRow.covers (r : OpcodeRow) (w : Word) : Bool := w &&& r.mask == r.pattern

/-- The word's fields as R83 places them: `x << 8`. -/
def atX (x : Reg) : Word := (BitVec.ofNat 16 x.val) <<< 8

/-- R83's `y << 4`. -/
def atY (y : Reg) : Word := (BitVec.ofNat 16 y.val) <<< 4

/-- R83's encoder: the row's match with the fields the kind uses inserted; bits 11..8 of clear-screen and return are 0,
the canonical form. -/
def encode : Instr → Word
  | .clearScreen => 0x00E0#16
  | .ret => 0x00EE#16
  | .jump nnn => 0x1000#16 ||| nnn.setWidth 16
  | .call nnn => 0x2000#16 ||| nnn.setWidth 16
  | .skipEqImm x kk => 0x3000#16 ||| atX x ||| kk.setWidth 16
  | .skipNeImm x kk => 0x4000#16 ||| atX x ||| kk.setWidth 16
  | .loadImm x kk => 0x6000#16 ||| atX x ||| kk.setWidth 16
  | .addImm x kk => 0x7000#16 ||| atX x ||| kk.setWidth 16
  | .copy x y => 0x8000#16 ||| atX x ||| atY y
  | .and x y => 0x8002#16 ||| atX x ||| atY y
  | .addCarry x y => 0x8004#16 ||| atX x ||| atY y
  | .subFlag x y => 0x8005#16 ||| atX x ||| atY y
  | .loadIndex nnn => 0xA000#16 ||| nnn.setWidth 16
  | .randomAnd x kk => 0xC000#16 ||| atX x ||| kk.setWidth 16
  | .draw x y n => 0xD000#16 ||| atX x ||| atY y ||| BitVec.ofNat 16 n.val
  | .skipKeyPressed x => 0xE09E#16 ||| atX x
  | .skipKeyNotPressed x => 0xE0A1#16 ||| atX x
  | .getDelay x => 0xF007#16 ||| atX x
  | .setDelay x => 0xF015#16 ||| atX x
  | .setSound x => 0xF018#16 ||| atX x
  | .fontAddress x => 0xF029#16 ||| atX x
  | .bcdStore x => 0xF033#16 ||| atX x
  | .regLoad x => 0xF065#16 ||| atX x

/-- The byte that holds bits 15..8 of a word, stored at the lower address (R53). -/
def highByte (w : Word) : Byte := w.extractLsb' 8 8

/-- The byte that holds bits 7..0 of a word, stored at the higher address (R53). -/
def lowByte (w : Word) : Byte := w.extractLsb' 0 8

/-- The word of `nbits` bits that the opcode table numbers `w` (bit 0 the least significant), bits above zero. -/
def tableWord (nbits w : Nat) : Word := BitVec.ofNat 16 (w % 2 ^ nbits)

/-- What the decoder reads from the table's word laid out as memory holds it. -/
def decodeTableWord (nbits w : Nat) : Option Instr :=
  match decodeBytes [highByte (tableWord nbits w), lowByte (tableWord nbits w)] with
  | .ok (i, _) => some i
  | .error _ => none

end Sys2Proof
end

