-- ==== Sys2Proof/Config.lean ====
section
/-! DEFINITION. What is fixed for a machine: the parameters of 00_scope.md rule R5, the font parameter
(R6), the physical keys of the input collaborator (60_exceptions.md rule R232), and the free value that stands for the
random byte (10_state.md rule R33). -/

namespace Sys2Proof.Config

/-- `MEM_SIZE` (R5): addresses are 0..4095. -/
@[simp] abbrev memSize : Nat := 4096

/-- `PC_MAX` (R5): the largest legal PC value. -/
@[simp] abbrev pcMax : Nat := 4094

/-- `ROM_BASE` (R5): where a ROM image is loaded. -/
@[simp] abbrev romBase : Nat := 0x200

/-- `ROM_MAX` (R5): the longest ROM image, in bytes. -/
@[simp] abbrev romMax : Nat := 3584

/-- `FONT_BYTES` (R6): the contents of addresses 0x000..0x04F, an argument of construction. -/
abbrev Font := Vector Byte 80

/-- RAND where no input is pending: a free input under no law (R33, decision D15, U1), so a constant with no body,
applied to State's counter. Safe; notes/assumptions/3.md. -/
opaque freeRand : Nat → Byte

/-- The sixteen physical keys of the input collaborator's table (R232). -/
inductive PhysicalKey where
  | k1 | k2 | k3 | k4
  | kQ | kW | kE | kR
  | kA | kS | kD | kF
  | kZ | kX | kC | kV
  deriving DecidableEq, Repr

end Sys2Proof.Config
end

