-- ==== Sys2Proof/Machine/ResetValues.lean ====
section
/-! DEFINITION. The values of R5, R250 and R232 that the spec takes from a decision or from general knowledge and that a
test could show wrong: the PC after construction, the default font, the key map. -/

namespace Sys2Proof.Config

/-- `RESET_PC` (R5, decision D2). -/
@[simp] abbrev resetPc : Word := 0x200#16

/-- The rows of glyphs 0 to 3 of R250's table. -/
def glyphs0to3 : List Byte :=
  [0xF0, 0x90, 0x90, 0x90, 0xF0] ++ [0x20, 0x60, 0x20, 0x20, 0x70] ++
  [0xF0, 0x10, 0xF0, 0x80, 0xF0] ++ [0xF0, 0x10, 0xF0, 0x10, 0xF0]

/-- The rows of glyphs 4 to 7 of R250's table. -/
def glyphs4to7 : List Byte :=
  [0x90, 0x90, 0xF0, 0x10, 0x10] ++ [0xF0, 0x80, 0xF0, 0x10, 0xF0] ++
  [0xF0, 0x80, 0xF0, 0x90, 0xF0] ++ [0xF0, 0x10, 0x20, 0x40, 0x40]

/-- The rows of glyphs 8 to B of R250's table. -/
def glyphs8toB : List Byte :=
  [0xF0, 0x90, 0xF0, 0x90, 0xF0] ++ [0xF0, 0x90, 0xF0, 0x10, 0xF0] ++
  [0xF0, 0x90, 0xF0, 0x90, 0x90] ++ [0xE0, 0x90, 0xE0, 0x90, 0xE0]

/-- The rows of glyphs C to F of R250's table. -/
def glyphsCtoF : List Byte :=
  [0xF0, 0x80, 0x80, 0x80, 0xF0] ++ [0xE0, 0x90, 0x90, 0x90, 0xE0] ++
  [0xF0, 0x80, 0xF0, 0x80, 0xF0] ++ [0xF0, 0x80, 0xF0, 0x80, 0x80]

/-- The default `FONT_BYTES` of R250, the conventional font, glyph d at 5*d. PRESUMED by the spec itself (from general
knowledge, decision D14), unsafe for a claim about drawn glyphs; notes/assumptions/2.md. -/
def defaultFont : Font :=
  ⟨(glyphs0to3 ++ glyphs4to7 ++ glyphs8toB ++ glyphsCtoF).toArray, by decide⟩

/-- R232's fixed table, physical key to logical key. The map is the collaborator's; the core sees only `KEYS`. -/
def logicalKey : PhysicalKey → Fin 16
  | .k1 => 0x1 | .k2 => 0x2 | .k3 => 0x3 | .k4 => 0xC
  | .kQ => 0x4 | .kW => 0x5 | .kE => 0x6 | .kR => 0xD
  | .kA => 0x7 | .kS => 0x8 | .kD => 0x9 | .kF => 0xE
  | .kZ => 0xA | .kX => 0x0 | .kC => 0xB | .kV => 0xF

end Sys2Proof.Config
end

