-- ==== Sys2Proof/Machine/State.lean ====
section
/-! DEFINITION. The machine's state as plain data (10_state.md rule R20, with the step's inputs and output of
40_cycle_driver.md rule R112), the fatal-error record (60_exceptions.md rules R221, R222), the reasons a step of the
model can stop, and the state after construction (70_reset_and_hazards.md rule R250). -/

namespace Sys2Proof.Machine

/-- The five kinds of R222. -/
inductive AccessKind where
  | stackOverflow
  | stackUnderflow
  | memory
  | keyIndex
  | programCounter
  deriving DecidableEq, Repr

/-- The record a fatal error leaves in FAULT (R221, R222; its layout is decision D29). -/
inductive FaultRecord where
  | unknownOpcode (opcode : Word) (pc : Word)
  | outOfBoundsAccess (kind : AccessKind) (value : Nat) (opcode : Word) (pc : Word)
  deriving DecidableEq, Repr

/-- MEM (R50) as (address, byte) pairs in canonical form: addresses rising, no entry equal to what an unlisted address
reads as (`Memory.wf`, Machine/Memory.lean). -/
abbrev Memory := List Host.Cell

/-- FB: 32 rows of 64 pixels, `FB[row][col]` (R29). -/
abbrev Framebuffer := Vector (Vector Bool 64) 32

/-- KEYS: bit k is 1 (true) when key k is pressed (R31, R112). -/
abbrev Keypad := Vector Bool 16

/-- The inputs of one step (R112). -/
structure StepInput where
  keys : Keypad
  rand : Byte
  deriving DecidableEq, Repr

/-- The state vector S of R20, then the step's inputs and output (R112) and the model's own bookkeeping of inputs. -/
structure State where
  /-- MEM (R50). -/
  mem : Memory
  /-- V0..VF (R22); V[15] is also the flag register VF (R23). -/
  v : Vector Byte 16
  /-- I (R25). -/
  index : Word
  /-- PC (R26). -/
  pc : Word
  /-- SP, an integer in 0..16 (R27). -/
  sp : Fin 17
  /-- STACK[0..15] (R27). -/
  stack : Vector Word 16
  /-- DT (R28). -/
  dt : Byte
  /-- ST (R28). -/
  st : Byte
  /-- FB (R29). -/
  fb : Framebuffer
  /-- DIRTY (R30). -/
  dirty : Bool
  /-- FAULT (R32). -/
  fault : Option FaultRecord
  /-- The snapshot KEYS given to the current step (R31, R112). -/
  keys : Keypad
  /-- The byte RAND given to the current step (R33, R112). -/
  rand : Byte
  /-- The model's own: the inputs the host will give the next steps, oldest first (R112, R233;
  notes/assumptions/3.md and 4.md). -/
  inputs : List StepInput
  /-- The model's own: how many random bytes have been taken from the free value (notes/assumptions/3.md). -/
  freeCount : Nat
  /-- The output `present` (R109, R112): the images handed to the display so far, newest first
  (notes/assumptions/6.md). -/
  presents : List Framebuffer
  deriving DecidableEq, Repr

/-- Why a step of the model can stop. No fatal error of the spec is among them: those are states with `fault` set. -/
inductive Fault where
  /-- Raised by the cycle driver's fetch when PC + 1 is past address 4095. R102 says that fetch never raises, since PC is
  at most 4094, so no run reaches it. Safe (a stop where the spec describes nothing; notes/assumptions/10.md). -/
  | fetchOutsideMemory (pc : Word)
  deriving DecidableEq, Repr

/-- Why an instruction can be refused. -/
inductive Refusal where
  /-- Raised by `exec` for an instruction with no meaning yet; no arm raises it. Safe. -/
  | notModelled (mnemonic : String)
  deriving DecidableEq, Repr

/-- What a meaning and a step answer. -/
abbrev Result := Host.Outcome State Fault Refusal

/-- An image with every pixel unlit. -/
def Framebuffer.blank : Framebuffer := Vector.replicate 32 (Vector.replicate 64 false)

/-- The state after construction, before a ROM is loaded (R250), with the default font (memory with nothing listed reads
as the reset contents). `rand`, `inputs`, `freeCount`: DESIGN CHOICE, notes/assumptions/5.md. -/
def State.reset : State where
  mem := []
  v := Vector.replicate 16 0
  index := 0
  pc := Config.resetPc
  sp := 0
  stack := Vector.replicate 16 0
  dt := 0
  st := 0
  fb := Framebuffer.blank
  dirty := false
  fault := none
  keys := Vector.replicate 16 false
  rand := 0
  inputs := []
  freeCount := 0
  presents := []

end Sys2Proof.Machine
end

