-- ==== Sys2Proof/Machine/Memory.lean ====
section
/-! DEFINITION. Memory (20_memory.md): what an unlisted address reads as, reading and writing one byte, and the canonical
form. -/

namespace Sys2Proof.Machine

/-- What an address that is not listed reads as: the contents after construction (R250) with the default font. -/
def Memory.resetByte (a : Nat) : Byte := (Config.defaultFont[a]?).getD 0

/-- The byte at an address (R51); every access checks its address first. -/
def Memory.byteAt : Memory → Nat → Byte
  | [], a => Memory.resetByte a
  | (k, c) :: rest, a => if a = k then c else Memory.byteAt rest a

/-- A list of cells with the address `a` holding `b`, listed only where that is not what an unlisted address reads as. -/
def Memory.consCell (a : Nat) (b : Byte) (m : Memory) : Memory :=
  if b = Memory.resetByte a then m else (a, b) :: m

/-- Writing one byte at an address of memory, keeping the canonical form. -/
def Memory.write : Memory → Nat → Byte → Memory
  | [], a, b => Memory.consCell a b []
  | (k, c) :: rest, a, b =>
    if a < k then Memory.consCell a b ((k, c) :: rest)
    else if a = k then Memory.consCell a b rest
    else (k, c) :: Memory.write rest a b

/-- Writing consecutive bytes from an address on. -/
def Memory.writeBytes : Memory → Nat → List Byte → Memory
  | m, _, [] => m
  | m, a, b :: rest => Memory.writeBytes (Memory.write m a b) (a + 1) rest

/-- The canonical form from an address on: listed addresses rise, lie in 0..4095 and differ from what an unlisted address
reads as. -/
def Memory.wfFrom : Nat → Memory → Bool
  | _, [] => true
  | lo, (k, c) :: rest => lo ≤ k && k < Config.memSize && c != Memory.resetByte k && Memory.wfFrom (k + 1) rest

/-- The canonical form of memory: equal memories are equal lists. -/
def Memory.wf (m : Memory) : Bool := Memory.wfFrom 0 m

end Sys2Proof.Machine
end

