-- ==== Sys2Proof/Machine/Operands.lean ====
section
/-! DEFINITION. The operand forms (30_encoding.md rules R71, R72): a general register, the keypad bit a register names, an
effective address `I + k`, and the bytes of a block or a sprite. -/

namespace Sys2Proof.Machine

/-- `V[x]` (R22). -/
def State.reg (s : State) (x : Reg) : Byte := s.v[x.val]

/-- `V[x] <- b` (R22): no register is hard-wired. -/
def State.writeReg (s : State) (x : Reg) (b : Byte) : State := { s with v := s.v.set x.val b }

/-- The state with another memory. -/
def State.setMem (s : State) (m : Memory) : State := { s with mem := m }

/-- `I <- w` (R25). -/
def State.setIndex (s : State) (w : Word) : State := { s with index := w }

/-- `DT <- b` (R28). -/
def State.setDelay (s : State) (b : Byte) : State := { s with dt := b }

/-- `ST <- b` (R28). -/
def State.setSound (s : State) (b : Byte) : State := { s with st := b }

/-- The address of the k-th byte an instruction touches, an exact integer with no wrap (R164). -/
abbrev State.effAddr (s : State) (k : Nat) : Nat := s.index.toNat + k

/-- `MemRead(I + k, 1)` (R51), after the instruction's bound check. -/
def State.byteAtIndex (s : State) (k : Nat) : Byte := s.mem.byteAt (s.effAddr k)

/-- The `n` bytes of a sprite, row dy at `I + dy` (R181). -/
def State.spriteRows (s : State) (n : Nat) : List Byte := (List.range n).map s.byteAtIndex

/-- `for i in 0..count: V[i] <- MemRead(I + i, 1)` (R163), for `count` at most 16. -/
def State.loadRegs (s : State) : Nat → State
  | 0 => s
  | k + 1 => (s.loadRegs k).writeReg (Fin.ofNat 16 k) (s.byteAtIndex k)

/-- The keypad bit the value of `V[x]` names; none for a key number above 15 (R134). -/
def State.keyOf (s : State) (x : Reg) : Option Bool := s.keys[(s.reg x).toNat]?

end Sys2Proof.Machine
end

