-- ==== Sys2Proof/Machine/Flags.lean ====
section
/-! DEFINITION. The values VF is given as a flag (10_state.md rule R23): the carry of add-carry, the strict comparison of
sub-flag, the collision of draw. There are no other flags (R24). -/

namespace Sys2Proof.Machine

/-- A condition as the register value 1 or 0. -/
def flagByte (b : Bool) : Byte := if b then 1 else 0

/-- The exact sum of add-carry, 0..510 (R144, R147). -/
def exactSum (a b : Byte) : Nat := a.toNat + b.toNat

/-- The carry: 1 iff the exact sum is above 255 (R144). -/
def carryFlag (a b : Byte) : Byte := flagByte (exactSum a b > 255)

/-- Sub-flag's strict greater-than, 0 on equal operands (R145, decision D10). -/
def greaterFlag (a b : Byte) : Byte := flagByte (a.toNat > b.toNat)

/-- Draw's collision as VF's value (R183, R187). -/
def collisionFlag (hit : Bool) : Byte := flagByte hit

/-- `VF <- b` (R23). -/
def State.writeFlag (s : State) (b : Byte) : State := s.writeReg flagReg b

end Sys2Proof.Machine
end

