-- ==== Sys2Proof/Machine/Ops.lean ====
section
/-! DEFINITION. The named operations the meanings and the cycle driver share: memory primitives, the call stack, the
framebuffer engine, the timer unit, taking a fatal error, the PC check with commit, sampling the inputs, presenting. -/

namespace Sys2Proof.Machine

/-! ### Memory primitives (20_memory.md) -/

/-- `MemRead(a, 1)` (R51): none where it does not return, for an address above 4095. -/
def State.memRead (s : State) (a : Nat) : Option Byte := if a < Config.memSize then some (s.mem.byteAt a) else none

/-- `MemWrite(a, 1, b)` (R52) to an address of memory; an instruction's bound check comes first, so an address above 4095
is never written. -/
def State.memWrite (s : State) (a : Nat) (b : Byte) : State :=
  if a < Config.memSize then s.setMem (s.mem.write a b) else s

/-- The instruction word at PC, the byte at the lower address holding bits 15..8 (R53, R102). -/
def State.fetchWord (s : State) : Option Word :=
  match s.memRead s.pc.toNat, s.memRead (s.pc.toNat + 1) with
  | some hi, some lo => some (hi ++ lo)
  | _, _ => none

/-- The word of the cycle in progress, for the fault record (R222); memory at PC is as it was when it was fetched, since
no handler's writes stand when a fault is taken (notes/assumptions/8.md). -/
def State.currentWord (s : State) : Word := s.fetchWord.getD 0

/-! ### Taking a fatal error (60_exceptions.md) -/

/-- FAULT is the record (R32). -/
def State.setFault (s : State) (r : FaultRecord) : State := { s with fault := some r }

/-- Fault entry (R225, R107): FAULT is the record, everything else is as it stood when the cycle's Execute began. No
vector, no mode, no saved state. There is no return from it (R226). -/
def State.takeFault (s : State) (r : FaultRecord) : Result := .next (s.setFault r)

/-- `raise OutOfBoundsAccess(kind, value)` at the current instruction (R222). -/
def State.raise (s : State) (kind : AccessKind) (value : Nat) : Result :=
  s.takeFault (.outOfBoundsAccess kind value s.currentWord s.pc)

/-- `raise UnknownOpcode(w, PC)` (R221). -/
def State.raiseUnknownOpcode (s : State) (w : Word) : Result := s.takeFault (.unknownOpcode w s.pc)

/-! ### The next PC, the PC check and commit (40_cycle_driver.md) -/

/-- The default next PC, `PC + 2` as an exact integer (R105). -/
def State.pcNext (s : State) : Nat := s.pc.toNat + 2

/-- A skip's next PC: `PC + 4` when its condition holds, else `PC + 2` (R105). -/
def State.pcSkip (s : State) (holds : Bool) : Nat := if holds then s.pc.toNat + 4 else s.pc.toNat + 2

/-- `PC <- next` (R107). -/
def State.setPc (s : State) (next : Nat) : State := { s with pc := BitVec.ofNat 16 next }

/-- A next PC that R106 rejects: odd, or above 4094. -/
def badPc (next : Nat) : Bool := next % 2 == 1 || next > Config.pcMax

/-- The PC check and commit (R106, R107): on a bad next PC the cycle is aborted from `start`; otherwise the handler's
writes take effect and `PC <- next`. -/
def State.commit (start written : State) (next : Nat) : Result :=
  if badPc next then start.raise .programCounter next
  else .next (written.setPc next)

/-! ### The call stack (R27) -/

/-- A push: `STACK[SP] <- a; SP <- SP + 1`; none at SP = 16. -/
def State.push (s : State) (a : Word) : Option State :=
  if h : s.sp.val < 16 then some { s with stack := s.stack.set s.sp.val a, sp := ⟨s.sp.val + 1, by omega⟩ } else none

/-- A pop: `SP <- SP - 1; STACK[SP]`; none at SP = 0. The slot keeps its value (R120). -/
def State.pop (s : State) : Option (Word × State) :=
  if h : 0 < s.sp.val then
    some (s.stack[s.sp.val - 1]'(by omega), { s with sp := ⟨s.sp.val - 1, by omega⟩ })
  else none

/-! ### The framebuffer engine (45_display.md) -/

/-- A pixel's place: row and column. -/
abbrev Pixel := Fin 32 × Fin 64

/-- `FB[row][col]`. -/
def Framebuffer.lit (fb : Framebuffer) (p : Pixel) : Bool := fb[p.1.val][p.2.val]

/-- `FB[row][col] <- FB[row][col] ^ 1`. -/
def Framebuffer.flip (fb : Framebuffer) (p : Pixel) : Framebuffer :=
  fb.set p.1.val (fb[p.1.val].set p.2.val (!fb[p.1.val][p.2.val]))

/-- The targets of one sprite row's set bits: bit `7 - dx` of the byte is the pixel at `dx`, wrapped (R180, R181). -/
def rowTargets (ox oy dy : Nat) (b : Byte) : List Pixel :=
  ((List.range 8).filter fun dx => b.getLsbD (7 - dx)).map fun dx => (Fin.ofNat 32 (oy + dy), Fin.ofNat 64 (ox + dx))

/-- The targets of the set bits of a sprite whose first row is row `dy` of the draw, row by row, left to right (R187). -/
def spriteTargets (ox oy : Nat) : Nat → List Byte → List Pixel
  | _, [] => []
  | dy, b :: rest => rowTargets ox oy dy b ++ spriteTargets ox oy (dy + 1) rest

/-- One set sprite bit (R182, R183): the collision takes in the pixel before its XOR, then the pixel is inverted. -/
def compositeBit (acc : Framebuffer × Bool) (p : Pixel) : Framebuffer × Bool :=
  (acc.1.flip p, acc.2 || acc.1.lit p)

/-- `composite(ox, oy, rows) -> collision` (R185) on an image: the image after it, and the collision, an OR that starts
from 0 (R183, decision D4). -/
def composite (ox oy : Nat) (rows : List Byte) (fb : Framebuffer) : Framebuffer × Bool :=
  (spriteTargets ox oy 0 rows).foldl compositeBit (fb, false)

/-- The engine's `clear()` (R185): every pixel 0, and the framebuffer marked dirty. -/
def State.clearFb (s : State) : State := { s with fb := Framebuffer.blank, dirty := true }

/-- The engine's `composite` on FB (R185), and the framebuffer marked dirty whether or not a pixel changed. -/
def State.compositeFb (s : State) (ox oy : Nat) (rows : List Byte) : State :=
  { s with fb := (composite ox oy rows s.fb).1, dirty := true }

/-! ### The stages around Execute (40_cycle_driver.md) -/

/-- A step's inputs are sampled once, before Execute (R112, decision D16): the oldest pending input, or, where none is
pending, the snapshot as it stands and a free random byte (notes/assumptions/3.md, 4.md). -/
def State.sampleInputs (s : State) : State :=
  match s.inputs with
  | [] => { s with rand := Config.freeRand s.freeCount, freeCount := s.freeCount + 1 }
  | input :: rest => { s with keys := input.keys, rand := input.rand, inputs := rest }

/-- A timer decremented by 1 if it is above 0 (R200). -/
def tick (t : Byte) : Byte := if t = 0 then 0 else t - 1

/-- The TimerTick stage (R108, R200). -/
def State.tickTimers (s : State) : State := { s with dt := tick s.dt, st := tick s.st }

/-- The PresentIfDirty stage (R109). -/
def State.presentIfDirty (s : State) : State :=
  if s.dirty then { s with presents := s.fb :: s.presents, dirty := false } else s

/-- The stages after Execute: none in a cycle that raised (R107), else TimerTick, then PresentIfDirty (R111). -/
def State.finishCycle (s : State) : State :=
  match s.fault with
  | some _ => s
  | none => s.tickTimers.presentIfDirty

end Sys2Proof.Machine
end

