-- ==== Sys2Proof/Machine/ControlFlow.lean ====
section
/-! DEFINITION. return, jump, call (41_control_flow.md). -/

namespace Sys2Proof.Machine

/-- return (R120): pop the stack into the next PC. -/
def execRet (s : State) : Result :=
  match s.pop with
  | none => s.raise .stackUnderflow s.sp.val
  | some (a, t) => s.commit t a.toNat

/-- jump NNN (R121). -/
def execJump (nnn : Addr) (s : State) : Result := s.commit s nnn.toNat

/-- call NNN (R122): push `PC + 2`, the next PC is `nnn`. -/
def execCall (nnn : Addr) (s : State) : Result :=
  match s.push (BitVec.ofNat 16 s.pcNext) with
  | none => s.raise .stackOverflow s.sp.val
  | some t => s.commit t nnn.toNat

end Sys2Proof.Machine
end

