-- ==== Sys2Proof/Machine/Display.lean ====
section
/-! DEFINITION. clear-screen and draw (45_display.md). -/

namespace Sys2Proof.Machine

/-- clear-screen (R186). -/
def execClearScreen (s : State) : Result := s.commit s.clearFb s.pcNext

/-- draw's writes with the origin and the sprite already read: FB and DIRTY by the engine, then VF once, after the
composite (R187, decisions D4 and D5). -/
def State.drawSprite (s : State) (ox oy : Nat) (rows : List Byte) : State :=
  (s.compositeFb ox oy rows).writeFlag (collisionFlag (composite ox oy rows s.fb).2)

/-- draw Vx,Vy,N (R187): the sprite's last byte is checked first, and with `n = 0` no byte is read. -/
def execDraw (x y : Reg) (n : Fin 16) (s : State) : Result :=
  if 0 < n.val ∧ Config.memSize ≤ s.effAddr (n.val - 1) then s.raise .memory (s.effAddr (n.val - 1))
  else s.commit (s.drawSprite (s.reg x).toNat (s.reg y).toNat (s.spriteRows n.val)) s.pcNext

end Sys2Proof.Machine
end

