-- ==== Sys2Proof/Machine/IndexMemory.lean ====
section
/-! DEFINITION. The index and memory instructions (44_index_memory.md). The highest address is checked before any access
(R164, decision D9). -/

namespace Sys2Proof.Machine

/-- load-index NNN (R160). -/
def execLoadIndex (nnn : Addr) (s : State) : Result := s.commit (s.setIndex (nnn.setWidth 16)) s.pcNext

/-- font-address Vx (R161): the whole 8-bit value times 5. -/
def execFontAddress (x : Reg) (s : State) : Result :=
  s.commit (s.setIndex (BitVec.ofNat 16 ((s.reg x).toNat * 5))) s.pcNext

/-- The three digit writes of bcd-store, hundreds at the lowest address (R162, R54). -/
def State.storeBcd (s : State) (b : Byte) : State :=
  ((s.memWrite (s.effAddr 0) (b / 100)).memWrite (s.effAddr 1) (b / 10 % 10)).memWrite (s.effAddr 2) (b % 10)

/-- bcd-store Vx (R162). -/
def execBcdStore (x : Reg) (s : State) : Result :=
  if s.effAddr 2 < Config.memSize then s.commit (s.storeBcd (s.reg x)) s.pcNext
  else s.raise .memory (s.effAddr 2)

/-- reg-load Vx (R163): `x + 1` registers. -/
def execRegLoad (x : Reg) (s : State) : Result :=
  if s.effAddr x.val < Config.memSize then s.commit (s.loadRegs (x.val + 1)) s.pcNext
  else s.raise .memory (s.effAddr x.val)

end Sys2Proof.Machine
end

