-- ==== Sys2Proof/Machine/RegisterAlu.lean ====
section
/-! DEFINITION. The register and arithmetic instructions (43_register_alu.md). Statements run in the order written, each
reading the registers as the one before left them (R10, decision D13). -/

namespace Sys2Proof.Machine

/-- load-imm Vx,KK (R140). -/
def execLoadImm (x : Reg) (kk : Byte) (s : State) : Result := s.commit (s.writeReg x kk) s.pcNext

/-- add-imm Vx,KK (R141): modulo 256, no flag. -/
def execAddImm (x : Reg) (kk : Byte) (s : State) : Result := s.commit (s.writeReg x (s.reg x + kk)) s.pcNext

/-- copy Vx,Vy (R142). -/
def execCopy (x y : Reg) (s : State) : Result := s.commit (s.writeReg x (s.reg y)) s.pcNext

/-- and Vx,Vy (R143): no flag. -/
def execAnd (x y : Reg) (s : State) : Result := s.commit (s.writeReg x (s.reg x &&& s.reg y)) s.pcNext

/-- add-carry's two writes: the sum captured first, the result, then VF (R144). -/
def State.addCarry (s : State) (x y : Reg) : State :=
  (s.writeReg x (BitVec.ofNat 8 (exactSum (s.reg x) (s.reg y)))).writeFlag (carryFlag (s.reg x) (s.reg y))

/-- add-carry Vx,Vy (R144). -/
def execAddCarry (x y : Reg) (s : State) : Result := s.commit (s.addCarry x y) s.pcNext

/-- sub-flag's first write: VF, the strict comparison (R145). -/
def State.subFlagFirst (s : State) (x y : Reg) : State := s.writeFlag (greaterFlag (s.reg x) (s.reg y))

/-- sub-flag's second write, modulo 256: both operands are read after the flag write (R145). -/
def State.subSecond (s : State) (x y : Reg) : State := s.writeReg x (s.reg x - s.reg y)

/-- sub-flag Vx,Vy (R145). -/
def execSubFlag (x y : Reg) (s : State) : Result := s.commit ((s.subFlagFirst x y).subSecond x y) s.pcNext

/-- random-and Vx,KK (R146), on this step's RAND (R33). -/
def execRandomAnd (x : Reg) (kk : Byte) (s : State) : Result := s.commit (s.writeReg x (s.rand &&& kk)) s.pcNext

end Sys2Proof.Machine
end

