-- ==== Sys2Proof/Machine/Skips.lean ====
section
/-! DEFINITION. The conditional skips (42_skips.md). -/

namespace Sys2Proof.Machine

/-- skip-eq-imm Vx,KK (R130). -/
def execSkipEqImm (x : Reg) (kk : Byte) (s : State) : Result := s.commit s (s.pcSkip (s.reg x == kk))

/-- skip-ne-imm Vx,KK (R131). -/
def execSkipNeImm (x : Reg) (kk : Byte) (s : State) : Result := s.commit s (s.pcSkip (s.reg x != kk))

/-- A key skip (R132 to R134): a key number above 15 raises, else the skip's condition is the key's level against
`wanted`. -/
def skipOnKey (x : Reg) (wanted : Bool) (s : State) : Result :=
  match s.keyOf x with
  | none => s.raise .keyIndex (s.reg x).toNat
  | some pressed => s.commit s (s.pcSkip (pressed == wanted))

/-- skip-key-pressed Vx (R132). -/
def execSkipKeyPressed (x : Reg) (s : State) : Result := skipOnKey x true s

/-- skip-key-not-pressed Vx (R133). -/
def execSkipKeyNotPressed (x : Reg) (s : State) : Result := skipOnKey x false s

end Sys2Proof.Machine
end

