-- ==== Sys2Proof/Machine/Timers.lean ====
section
/-! DEFINITION. The timer instructions (46_timers.md). The same cycle's tick is the driver's (R206). -/

namespace Sys2Proof.Machine

/-- get-delay Vx (R202): reads DT before this cycle's tick. -/
def execGetDelay (x : Reg) (s : State) : Result := s.commit (s.writeReg x s.dt) s.pcNext

/-- set-delay Vx (R203). -/
def execSetDelay (x : Reg) (s : State) : Result := s.commit (s.setDelay (s.reg x)) s.pcNext

/-- set-sound Vx (R204). -/
def execSetSound (x : Reg) (s : State) : Result := s.commit (s.setSound (s.reg x)) s.pcNext

end Sys2Proof.Machine
end

