-- ==== Sys2Proof/Machine/Cycle.lean ====
section
/-! DEFINITION. The cycle driver (40_cycle_driver.md): one whole cycle, R111's pseudocode. -/

namespace Sys2Proof.Machine

/-- The stages after Execute, on what Execute answered (R107 to R109). -/
def finishResult : Result → Result
  | .next t => .next t.finishCycle
  | .fault r => .fault r
  | .refused r => .refused r

/-- Decode and Execute of the fetched word, then the stages after them (R103, R104, R111). -/
def runWord (w : Word) (s : State) : Result :=
  match decode w with
  | none => s.raiseUnknownOpcode w
  | some i => finishResult (exec i s)

/-- One cycle (R111): a halted core changes nothing (R101); else fetch (R102), the inputs sampled, decode, execute,
TimerTick, PresentIfDirty. -/
def driveCycle (s : State) : Result :=
  match s.fault with
  | some _ => .next s
  | none =>
    match s.fetchWord with
    | none => .fault (.fetchOutsideMemory s.pc)
    | some w => runWord w s.sampleInputs

/-- The word `w` placed where the next cycle fetches it, big-endian at PC (R53). -/
def State.placeWord (s : State) (w : Word) : State :=
  (s.memWrite s.pc.toNat (highByte w)).memWrite (s.pc.toNat + 1) (lowByte w)

end Sys2Proof.Machine
end

