-- ==== Sys2Proof/Machine/Step.lean ====
section
/-! DEFINITION. One step of the machine is one cycle (40_cycle_driver.md rule R100), and the placing of a word where the
next step fetches it. -/

namespace Sys2Proof.Machine

/-- One step: one invocation of the core (R100). -/
def step (s : State) : Host.Outcome State Fault Refusal := driveCycle s

/-- The instruction of the opcode table's word `w` stored at PC, where the next step fetches it
(notes/assumptions/11.md). -/
def State.withFetchWord (s : State) (nbits w : Nat) : State := s.placeWord (tableWord nbits w)

end Sys2Proof.Machine
end

