-- ==== Sys2Proof/Machine/HostMoves.lean ====
section
/-! DEFINITION. What the host can do to the machine (60_exceptions.md rule R233): construct it with a font (R6, R250),
load a ROM (R251), give the next step its inputs (R112). Reading state and stopping (R113) need no operation. -/

namespace Sys2Proof.Machine

/-- The state after construction with a font of the host's choice (R6, R250). -/
def State.construct (font : Config.Font) : State :=
  State.reset.setMem (Memory.writeBytes State.reset.mem 0 font.toList)

/-- Loading a ROM image before the first step (R251): byte for byte at 0x200; none, the load error, when the image is
longer than 3584 bytes (the run does not start). -/
def State.loadRom (s : State) (image : List Byte) : Option State :=
  if image.length ≤ Config.romMax then some (s.setMem (Memory.writeBytes s.mem Config.romBase image)) else none

/-- The host gives the next step KEYS and RAND (R112, R233). -/
def State.offer (s : State) (keys : Keypad) (rand : Byte) : State := { s with inputs := ⟨keys, rand⟩ :: s.inputs }

/-- One step with the inputs named, `step(S, KEYS, RAND)` of R111. -/
def stepWith (keys : Keypad) (rand : Byte) (s : State) : Result := step (s.offer keys rand)

/-- The collaborator's response to a key transition (R232): the bit of the logical key becomes pressed or not. -/
def Keypad.transition (keys : Keypad) (key : Config.PhysicalKey) (pressed : Bool) : Keypad :=
  keys.set (Config.logicalKey key).val pressed

end Sys2Proof.Machine
end

