-- ==== Sys2Proof/Safety.lean ====
section
/-! DEFINITION. What a safe state is, and the words the claims use: the invariant of every state a run passes through, the
spec's tables of next PCs (40_cycle_driver.md rule R105) and of handler checks (60_exceptions.md rules R222 to R224) as
functions of the instruction and the state, frames, and runs of committed cycles. -/

namespace Sys2Proof.Machine

/-- A legal PC: even and within [0, 4094] (R26). -/
abbrev GoodPc (n : Nat) : Prop := n % 2 = 0 ∧ n ≤ 4094

/-- What holds in every state between cycles: memory in canonical form, a legal PC (R26), `I` within 0..4095 (R25), every
stack slot an even address a call can have pushed, at most 4096 (R27, R122), DIRTY 0 (R30). -/
structure State.Inv (s : State) : Prop where
  mem_wf : s.mem.wf = true
  pc_good : GoodPc s.pc.toNat
  index_le : s.index.toNat ≤ 4095
  stack_good : ∀ k : Fin 16, s.stack[k.val].toNat % 2 = 0 ∧ s.stack[k.val].toNat ≤ 4096
  clean : s.dirty = false

/-- The instruction the next cycle of a running core executes; none where the word is unsupported. -/
def State.nextInstr (s : State) : Option Instr := s.fetchWord.bind decode

/-- The return address on top of the stack (R27). -/
def State.topOfStack (s : State) : Nat := ((s.stack[s.sp.val - 1]?).getD 0).toNat

/-- Key `k` is pressed in the step's snapshot (R31). -/
def State.pressed (s : State) (k : Nat) : Bool := (s.keys[k]?).getD false

/-- R105's table of next PCs. -/
def State.nextPc (s : State) : Instr → Nat
  | .jump nnn | .call nnn => nnn.toNat
  | .ret => s.topOfStack
  | .skipEqImm x kk => if s.reg x = kk then s.pc.toNat + 4 else s.pc.toNat + 2
  | .skipNeImm x kk => if s.reg x = kk then s.pc.toNat + 2 else s.pc.toNat + 4
  | .skipKeyPressed x => if s.pressed (s.reg x).toNat then s.pc.toNat + 4 else s.pc.toNat + 2
  | .skipKeyNotPressed x => if s.pressed (s.reg x).toNat then s.pc.toNat + 2 else s.pc.toNat + 4
  | .clearScreen | .loadImm _ _ | .addImm _ _ | .copy _ _ | .and _ _ | .addCarry _ _ | .subFlag _ _ | .loadIndex _
  | .randomAnd _ _ | .draw _ _ _ | .getDelay _ | .setDelay _ | .setSound _ | .fontAddress _ | .bcdStore _
  | .regLoad _ => s.pc.toNat + 2

/-- The error a handler raises by its own check, as R222's and R223's tables give it: kind and recorded value. -/
def State.handlerError (s : State) : Instr → Option (AccessKind × Nat)
  | .ret => if s.sp.val = 0 then some (.stackUnderflow, 0) else none
  | .call _ => if s.sp.val = 16 then some (.stackOverflow, 16) else none
  | .draw _ _ n => if 0 < n.val ∧ 4095 < s.index.toNat + n.val - 1 then some (.memory, s.index.toNat + n.val - 1) else none
  | .bcdStore _ => if 4095 < s.index.toNat + 2 then some (.memory, s.index.toNat + 2) else none
  | .regLoad x => if 4095 < s.index.toNat + x.val then some (.memory, s.index.toNat + x.val) else none
  | .skipKeyPressed x | .skipKeyNotPressed x =>
    if 15 < (s.reg x).toNat then some (.keyIndex, (s.reg x).toNat) else none
  | .clearScreen | .jump _ | .skipEqImm _ _ | .skipNeImm _ _ | .loadImm _ _ | .addImm _ _ | .copy _ _ | .and _ _
  | .addCarry _ _ | .subFlag _ _ | .loadIndex _ | .randomAnd _ _ | .getDelay _ | .setDelay _ | .setSound _
  | .fontAddress _ => none

/-- The first error of an instruction in R224's order: the handler's own check, then the PC check (R106). -/
def State.firstError (s : State) (i : Instr) : Option (AccessKind × Nat) :=
  match s.handlerError i with
  | some e => some e
  | none => if GoodPc (s.nextPc i) then none else some (.programCounter, s.nextPc i)

/-- FAULT as R222 records an error of the instruction at PC. -/
def State.errorRecord (s : State) (kind : AccessKind) (value : Nat) : FaultRecord :=
  .outOfBoundsAccess kind value s.currentWord s.pc

/-- The opcode a fault record reports (R221, R222). -/
def FaultRecord.opcode : FaultRecord → Word
  | .unknownOpcode w _ => w
  | .outOfBoundsAccess _ _ w _ => w

/-- The address a fault record reports (R221, R222). -/
def FaultRecord.address : FaultRecord → Word
  | .unknownOpcode _ a => a
  | .outOfBoundsAccess _ _ _ a => a

/-- The frame of an instruction that writes only registers and PC: every register but the listed ones, every byte of
memory and every other field are as before (R110). -/
def RegisterFrame (written : List Reg) (s t : State) : Prop :=
  (∀ r, r ∉ written → t.reg r = s.reg r) ∧ (∀ a, t.mem.byteAt a = s.mem.byteAt a) ∧ t = { s with v := t.v, pc := t.pc }

/-- The registers the rules let an instruction write: its `V[x]` (R22), VF as a side effect of the three of R23, the block
of reg-load. -/
def mayWrite (i : Instr) (r : Reg) : Bool :=
  match i with
  | .loadImm x _ | .addImm x _ | .copy x _ | .and x _ | .randomAnd x _ | .getDelay x => r == x
  | .addCarry x _ | .subFlag x _ => r == x || r == flagReg
  | .draw _ _ _ => r == flagReg
  | .regLoad x => decide (r.val ≤ x.val)
  | .clearScreen | .ret | .jump _ | .call _ | .skipEqImm _ _ | .skipNeImm _ _ | .loadIndex _ | .skipKeyPressed _
  | .skipKeyNotPressed _ | .setDelay _ | .setSound _ | .fontAddress _ | .bcdStore _ => false

/-- The sprite of a draw with origin column `ox`, row `oy` and `n` rows at `I` has a set bit whose target is the pixel `p`
(R180, R181). -/
def State.SpriteLights (s : State) (ox oy n : Nat) (p : Pixel) : Prop :=
  ∃ dy dx, dy < n ∧ dx < 8 ∧ p.1.val = (oy + dy) % 32 ∧ p.2.val = (ox + dx) % 64 ∧
    (s.mem.byteAt (s.index.toNat + dy)).getLsbD (7 - dx) = true

/-- The sprite of a draw ends inside memory (R187). -/
abbrev State.SpriteInMemory (s : State) (n : Nat) : Prop := n = 0 ∨ s.index.toNat + n - 1 ≤ 4095

/-- A next state changed by `f`; a stop as it is. -/
def mapNext (f : State → State) : Result → Result
  | .next t => .next (f t)
  | .fault r => .fault r
  | .refused r => .refused r

/-- The state after `k` cycles, all of which commit, with `ok` holding before each of them; none otherwise. -/
def runWhile (ok : State → Bool) : Nat → State → Option State
  | 0, s => some s
  | k + 1, s =>
    if ok s then
      match step s with
      | .next t => if t.fault.isNone then runWhile ok k t else none
      | _ => none
    else none

/-- The next instruction is not a set-delay. -/
def State.leavesDelay (s : State) : Bool :=
  match s.nextInstr with
  | some (.setDelay _) => false
  | _ => true

end Sys2Proof.Machine
end

