-- ==== Sys2Proof/Certificates/Slice0/Obligations.lean ====
section
/-! DEFINITION. The statements for the provers. Each docstring names the rules of spec/ it formalises, or says what it is
derived from. -/

open Sys2Proof Sys2Proof.Machine

/-! ### Construction, the invariant, and runs -/

/-- R250: the state after construction, the default font's sixteen glyphs at 5*d among it (the font is the spec's
default of its parameter, notes/assumptions/2.md; nothing is said of the model's own fields). -/
def Obligations.ResetIsTheConstructionState : Prop :=
  let glyph := fun d => (List.range 5).map fun k => State.reset.mem.byteAt (5 * d + k)
  (glyph 0x0 = [0xF0, 0x90, 0x90, 0x90, 0xF0] ∧ glyph 0x1 = [0x20, 0x60, 0x20, 0x20, 0x70] ∧
   glyph 0x2 = [0xF0, 0x10, 0xF0, 0x80, 0xF0] ∧ glyph 0x3 = [0xF0, 0x10, 0xF0, 0x10, 0xF0] ∧
   glyph 0x4 = [0x90, 0x90, 0xF0, 0x10, 0x10] ∧ glyph 0x5 = [0xF0, 0x80, 0xF0, 0x10, 0xF0] ∧
   glyph 0x6 = [0xF0, 0x80, 0xF0, 0x90, 0xF0] ∧ glyph 0x7 = [0xF0, 0x10, 0x20, 0x40, 0x40] ∧
   glyph 0x8 = [0xF0, 0x90, 0xF0, 0x90, 0xF0] ∧ glyph 0x9 = [0xF0, 0x90, 0xF0, 0x10, 0xF0] ∧
   glyph 0xA = [0xF0, 0x90, 0xF0, 0x90, 0x90] ∧ glyph 0xB = [0xE0, 0x90, 0xE0, 0x90, 0xE0] ∧
   glyph 0xC = [0xF0, 0x80, 0x80, 0x80, 0xF0] ∧ glyph 0xD = [0xE0, 0x90, 0x90, 0x90, 0xE0] ∧
   glyph 0xE = [0xF0, 0x80, 0xF0, 0x80, 0xF0] ∧ glyph 0xF = [0xF0, 0x80, 0xF0, 0x80, 0x80]) ∧
  (∀ a, 0x50 ≤ a → State.reset.mem.byteAt a = 0) ∧
  (∀ r, State.reset.reg r = 0) ∧ State.reset.index = 0 ∧ State.reset.pc = 0x200#16 ∧ State.reset.sp.val = 0 ∧
  (∀ k : Fin 16, State.reset.stack[k.val] = 0) ∧ State.reset.dt = 0 ∧ State.reset.st = 0 ∧
  (∀ p, State.reset.fb.lit p = false) ∧ State.reset.dirty = false ∧ State.reset.fault = none ∧
  (∀ k : Fin 16, State.reset.keys[k.val] = false)

/-- The invariant holds after construction; derived from R25, R26, R27, R30, R250. -/
def Obligations.ResetMeetsTheInvariant : Prop := State.reset.Inv

/-- Construction with any font (R6, R250): the font's bytes at 0x000..0x04F, 0 elsewhere, every other element as R250
has it, the invariant holds, and the default font gives the reset state. Derived: `State.construct` is the model's
form of R6's parameter. -/
def Obligations.ConstructionTakesAnyFont : Prop :=
  (∀ font : Config.Font,
    (∀ k : Fin 80, (State.construct font).mem.byteAt k.val = font[k.val]) ∧
    (∀ a, 80 ≤ a → (State.construct font).mem.byteAt a = 0) ∧
    State.construct font = State.reset.setMem (State.construct font).mem ∧ (State.construct font).Inv) ∧
  State.construct Config.defaultFont = State.reset

/-- Every step from every state that meets the invariant, and not only from reset, gives a state that meets it; derived
from R25, R26, R27, R30, R52, R106, R109. -/
def Obligations.EveryStepKeepsTheInvariant : Prop := ∀ s t, s.Inv → step s = .next t → t.Inv

/-- The core never stops by itself: from every state that meets the invariant any number of steps answers a next state
(the model's fault and refusal are never reached); derived from R102, R113. -/
def Obligations.InvariantStatesRunForever : Prop :=
  ∀ (k : Nat) (s : State), s.Inv → ∃ t : State, Host.Core.run Sys2Proof.core k s = .next t ∧ t.Inv

/-- Derived from R251, whose last clause the spec marks as derived: a ROM image of at most 3584 bytes stands byte for
byte at 0x200 and every other byte keeps its value; a longer one is an error; after an empty one the first step faults
with UnknownOpcode(0x0000, 0x200). -/
def Obligations.RomLoadIsByteForByteOrAnError : Prop :=
  (∀ (font : Config.Font) (image : List Byte), image.length ≤ 3584 →
    ∃ t, (State.construct font).loadRom image = some t ∧
      (∀ k (h : k < image.length), t.mem.byteAt (0x200 + k) = image[k]) ∧
      (∀ a, a < 0x200 ∨ 0x200 + image.length ≤ a → t.mem.byteAt a = (State.construct font).mem.byteAt a) ∧
      t = (State.construct font).setMem t.mem ∧ t.Inv) ∧
  (∀ (s : State) (image : List Byte), 3584 < image.length → s.loadRom image = none) ∧
  (∀ font, ∃ t u, (State.construct font).loadRom [] = some t ∧ step t = .next u ∧
    u.fault = some (.unknownOpcode 0x0000#16 0x200#16))

/-! ### The decoder and the encoder -/

/-- R71: the six fields of every word, by their bit positions. -/
def Obligations.FieldsAreTakenFromTheirBits : Prop :=
  ∀ w : Word, (family w).toNat = w.toNat / 4096 ∧ (fields w).x.val = w.toNat / 256 % 16 ∧
    (fields w).y.val = w.toNat / 16 % 16 ∧ (fields w).n.val = w.toNat % 16 ∧ (fields w).kk.toNat = w.toNat % 256 ∧
    (fields w).nnn.toNat = w.toNat % 4096

/-- R76: the decoder's case analysis gives the kind of the first row that covers the word, none where no row does, and
no two rows overlap. -/
def Obligations.OpcodeMapGivesTheKind : Prop :=
  ∀ w : Word, kindOf w = (opcodeMap.find? fun r => r.covers w).map (fun r => r.kind) ∧
    ∀ r ∈ opcodeMap, ∀ r' ∈ opcodeMap, r.covers w = true → r'.covers w = true → r = r'

/-- R79, R221: which words are unsupported, and that executing one ends in FAULT = UnknownOpcode(w, PC). -/
def Obligations.UnsupportedWordsRaiseUnknownOpcode : Prop :=
  (∀ w : Word, decode w = none ↔
    (w.toNat / 4096 = 0x5 ∨ w.toNat / 4096 = 0x9 ∨ w.toNat / 4096 = 0xB ∨
     (w.toNat / 4096 = 0x0 ∧ w.toNat % 256 ≠ 0xE0 ∧ w.toNat % 256 ≠ 0xEE) ∨
     (w.toNat / 4096 = 0x8 ∧ w.toNat % 16 ∈ [0x1, 0x3, 0x6, 0x7, 0x8, 0x9, 0xA, 0xB, 0xC, 0xD, 0xE, 0xF]) ∨
     (w.toNat / 4096 = 0xE ∧ w.toNat % 256 ≠ 0x9E ∧ w.toNat % 256 ≠ 0xA1) ∨
     (w.toNat / 4096 = 0xF ∧ w.toNat % 256 ∉ [0x07, 0x15, 0x18, 0x29, 0x33, 0x65]))) ∧
  (∀ (s : State) (w : Word), s.fault = none → s.fetchWord = some w → decode w = none →
    ∃ t, step s = .next t ∧ t.fault = some (.unknownOpcode w s.pc))

/-- Decode and encode agree on every instruction, with every operand at every value, and every instruction is well
formed; derived from R72, R83. -/
def Obligations.DecodeOfEncodeIsTheInstruction : Prop := ∀ i : Instr, i.wellFormed = true ∧ decode (encode i) = some i

/-- Derived from R83, whose last sentence the spec marks as derived: the encoder's formulas (`match | fields` as sums,
the fields being disjoint), and what a supported word re-encodes to: itself, but for the non-canonical words of
clear-screen and return, which re-encode to the canonical word. -/
def Obligations.EncoderFollowsTheMap : Prop :=
  (∀ (x y : Reg) (n : Fin 16) (kk : Byte) (nnn : Addr),
    (encode .clearScreen).toNat = 0x00E0 ∧ (encode .ret).toNat = 0x00EE ∧
    (encode (.jump nnn)).toNat = 0x1000 + nnn.toNat ∧ (encode (.call nnn)).toNat = 0x2000 + nnn.toNat ∧
    (encode (.skipEqImm x kk)).toNat = 0x3000 + x.val * 256 + kk.toNat ∧
    (encode (.skipNeImm x kk)).toNat = 0x4000 + x.val * 256 + kk.toNat ∧
    (encode (.loadImm x kk)).toNat = 0x6000 + x.val * 256 + kk.toNat ∧
    (encode (.addImm x kk)).toNat = 0x7000 + x.val * 256 + kk.toNat ∧
    (encode (.copy x y)).toNat = 0x8000 + x.val * 256 + y.val * 16 ∧
    (encode (.and x y)).toNat = 0x8002 + x.val * 256 + y.val * 16 ∧
    (encode (.addCarry x y)).toNat = 0x8004 + x.val * 256 + y.val * 16 ∧
    (encode (.subFlag x y)).toNat = 0x8005 + x.val * 256 + y.val * 16 ∧
    (encode (.loadIndex nnn)).toNat = 0xA000 + nnn.toNat ∧
    (encode (.randomAnd x kk)).toNat = 0xC000 + x.val * 256 + kk.toNat ∧
    (encode (.draw x y n)).toNat = 0xD000 + x.val * 256 + y.val * 16 + n.val ∧
    (encode (.skipKeyPressed x)).toNat = 0xE09E + x.val * 256 ∧
    (encode (.skipKeyNotPressed x)).toNat = 0xE0A1 + x.val * 256 ∧
    (encode (.getDelay x)).toNat = 0xF007 + x.val * 256 ∧ (encode (.setDelay x)).toNat = 0xF015 + x.val * 256 ∧
    (encode (.setSound x)).toNat = 0xF018 + x.val * 256 ∧ (encode (.fontAddress x)).toNat = 0xF029 + x.val * 256 ∧
    (encode (.bcdStore x)).toNat = 0xF033 + x.val * 256 ∧ (encode (.regLoad x)).toNat = 0xF065 + x.val * 256) ∧
  (∀ (w : Word) (i : Instr), decode w = some i → decode (encode i) = some i ∧
    encode i = if i = .clearScreen ∨ i = .ret then w &&& 0xF0FF#16 else w)

/-- Words of spec/95_test_vectors.md 2.1, written out from the encodings of R76; a sanity statement. -/
def Obligations.SampleWordsDecode : Prop :=
  decode 0x07E0#16 = some .clearScreen ∧ decode 0x0FEE#16 = some .ret ∧ decode 0x0123#16 = none ∧
  decode 0x1ABC#16 = some (.jump 0xABC) ∧ decode 0x3A7F#16 = some (.skipEqImm 0xA 0x7F) ∧
  decode 0x6F12#16 = some (.loadImm 0xF 0x12) ∧ decode 0x8AB5#16 = some (.subFlag 0xA 0xB) ∧ decode 0x8AB7#16 = none ∧
  decode 0xA123#16 = some (.loadIndex 0x123) ∧ decode 0xC5F0#16 = some (.randomAnd 0x5 0xF0) ∧
  decode 0xD12F#16 = some (.draw 0x1 0x2 0xF) ∧ decode 0xE3A1#16 = some (.skipKeyNotPressed 0x3) ∧
  decode 0xF465#16 = some (.regLoad 0x4) ∧ decode 0xF455#16 = none

/-! ### The cycle -/

/-- R53: the fetched word is the byte at PC times 256 plus the byte at PC + 1, and the decoder reads bytes in that
order. -/
def Obligations.FetchIsBigEndian : Prop :=
  (∀ s : State, s.pc.toNat ≤ 4094 → ∃ w : Word, s.fetchWord = some w ∧
    w.toNat = (s.mem.byteAt s.pc.toNat).toNat * 256 + (s.mem.byteAt (s.pc.toNat + 1)).toNat) ∧
  (∀ (hi lo : Byte) (rest : List Byte) (w : Word), w.toNat = hi.toNat * 256 + lo.toNat →
    decodeBytes (hi :: lo :: rest) =
      match decode w with
      | some i => .ok (i, rest)
      | none => .error (.unsupported w))

/-- A word placed by `withFetchWord` is what the next cycle fetches, and nothing but the two bytes at PC changes;
derived from R51, R52, R53 (`withFetchWord` is the model's stand-in for a load, notes/assumptions/11.md). -/
def Obligations.PlacedWordIsFetched : Prop :=
  ∀ (s : State) (w : Nat), s.mem.wf = true → s.pc.toNat ≤ 4094 → w < 65536 →
    (s.withFetchWord 16 w).fetchWord = some (BitVec.ofNat 16 w) ∧
    (∀ a, a ≠ s.pc.toNat → a ≠ s.pc.toNat + 1 → (s.withFetchWord 16 w).mem.byteAt a = s.mem.byteAt a) ∧
    s.withFetchWord 16 w = s.setMem (s.withFetchWord 16 w).mem ∧ (s.withFetchWord 16 w).mem.wf = true

/-- A step of a running core whose word at PC decodes to `i` is Execute of `i` on the state with its inputs sampled,
then, unless the cycle raised, TimerTick and PresentIfDirty; derived from R102 to R104, R107 to R109, R111. -/
def Obligations.StepRunsTheDecodedInstruction : Prop :=
  (∀ (s : State) (w : Word) (i : Instr), s.fault = none → s.fetchWord = some w → decode w = some i →
    step s = finishResult (exec i s.sampleInputs)) ∧
  (∀ t : State, t.fault = none → finishResult (.next t) = .next t.tickTimers.presentIfDirty) ∧
  (∀ t : State, t.fault ≠ none → finishResult (.next t) = .next t)

/-- The inputs a step is given are the ones its Execute reads, and a step with no pending input reads the snapshot as it
stands and a free random byte; derived from R31, R33, R112 and decision D16; that the snapshot stands where no input is
pending is the model's choice (notes/assumptions/4.md). -/
def Obligations.StepReadsTheInputsItIsGiven : Prop :=
  (∀ (s : State) (w : Word) (keys : Keypad) (rand : Byte), s.fault = none → s.fetchWord = some w →
    stepWith keys rand s = runWord w { s with keys := keys, rand := rand }) ∧
  (∀ s : State, s.inputs = [] → s.sampleInputs.keys = s.keys ∧ s.sampleInputs.rand = Config.freeRand s.freeCount ∧
    s.sampleInputs.freeCount = s.freeCount + 1)

/-- R101: a halted core has no step, for any number of invocations and whatever the inputs. -/
def Obligations.HaltedCoreHasNoStep : Prop :=
  ∀ s : State, s.fault ≠ none →
    (∀ k, Host.Core.run Sys2Proof.core k s = .next s) ∧
    (∀ keys rand, stepWith keys rand s = .next (s.offer keys rand))

/-- Derived from R107, R225: a cycle that raises sets FAULT to a record that names exactly the instruction at PC,
keeps all other state as it stood at the start of the cycle (its inputs sampled), and the core has stopped. The kept
state is the spec's own choice (decision D8, U2; notes/assumptions/9.md). -/
def Obligations.FaultEntryIsPreciseAndKeepsTheState : Prop :=
  ∀ (s t : State) (w : Word), s.fault = none → s.fetchWord = some w → step s = .next t → t.fault ≠ none →
    (∃ r, t.fault = some r ∧ r.opcode = w ∧ r.address = s.pc) ∧
    t = { s with fault := t.fault, keys := t.keys, rand := t.rand, inputs := t.inputs, freeCount := t.freeCount } ∧
    step t = .next t

/-- R105, R222: the next PC of every instruction that passes its own check is R105's table's; an odd or too large one
raises OutOfBoundsAccess(ProgramCounter, next_pc), any other becomes PC. An instruction that fails its own check raises
that error instead, recorded as R222's table says, before the PC is checked (R224). -/
def Obligations.FirstErrorOrNextPcDecides : Prop :=
  ∀ (i : Instr) (s : State),
    (∀ kind value, s.firstError i = some (kind, value) → ∃ t, exec i s = .next t ∧
      t.fault = some (s.errorRecord kind value)) ∧
    (s.firstError i = none → ∃ t, exec i s = .next t ∧ t.pc.toNat = s.nextPc i ∧ t.fault = s.fault)

/-- The invariant of R26, from any state at all: after any instruction executes, PC is even and within bounds, or the
machine is in a fatal error state. Derived from R26, R106. -/
def Obligations.ProgramCounterIsLegalOrFault : Prop :=
  ∀ s t : State, s.fault = none → step s = .next t → t.fault = none → GoodPc t.pc.toNat

/-- Derived from R106 and R114: the cases in which Execute ends in the PC check's error. In a running state that meets
the invariant it does so only in R106's cases: a jump or call to an odd address; a return to 4096; an instruction at
4094 whose next PC is 4096; a skip whose next PC is PC + 4, at 4092 or 4094. And in each of those cases, where the
handler's own check passes, it does. The error's kind and the point at which it is raised are the spec's decision D7
(notes/assumptions/1.md). -/
def Obligations.PcErrorsAreTheListedCases : Prop :=
  (∀ (s t : State) (i : Instr) (value : Nat) (w a : Word), s.Inv → s.fault = none → exec i s = .next t →
    t.fault = some (.outOfBoundsAccess .programCounter value w a) →
    (∃ nnn : Addr, (i = .jump nnn ∨ i = .call nnn) ∧ value = nnn.toNat ∧ nnn.toNat % 2 = 1) ∨
    (i = .ret ∧ value = 4096) ∨
    (s.pc.toNat = 4094 ∧ value = 4096) ∨
    (value = s.pc.toNat + 4 ∧ (s.pc.toNat = 4092 ∨ s.pc.toNat = 4094) ∧
      ((∃ x kk, i = .skipEqImm x kk ∨ i = .skipNeImm x kk) ∨ ∃ x, i = .skipKeyPressed x ∨ i = .skipKeyNotPressed x))) ∧
  (∀ (s : State) (i : Instr), s.handlerError i = none →
    ((∃ nnn : Addr, (i = .jump nnn ∨ i = .call nnn) ∧ nnn.toNat % 2 = 1) ∨
     (i = .ret ∧ s.topOfStack = 4096) ∨
     (s.pc.toNat = 4094 ∧ (∀ nnn, i ≠ .jump nnn) ∧ (∀ nnn, i ≠ .call nnn) ∧ i ≠ .ret) ∨
     (s.pc.toNat = 4092 ∧ s.nextPc i = s.pc.toNat + 4)) →
    ∃ t, exec i s = .next t ∧ t.fault = some (s.errorRecord .programCounter (s.nextPc i)))

/-- Derived from R108, R200, R201: each timer is decremented by 1, floored at 0, exactly once in every cycle that
commits (from the value set-delay or set-sound wrote, where that is the instruction), and not at all in one that
raises. That the timers of a raising cycle are as before is R107's and R201's, by the spec's own decision D8 (against
its U2), which the model takes: notes/assumptions/9.md. -/
def Obligations.TimersTickOncePerCommittedCycle : Prop :=
  ∀ s t : State, s.fault = none → step s = .next t →
    (t.fault ≠ none → t.dt = s.dt ∧ t.st = s.st) ∧
    (t.fault = none → ∃ i, s.nextInstr = some i ∧
      (t.dt.toNat = match i with
        | .setDelay x => (s.reg x).toNat - 1
        | _ => s.dt.toNat - 1) ∧
      (t.st.toNat = match i with
        | .setSound x => (s.reg x).toNat - 1
        | _ => s.st.toNat - 1))

/-- Derived from R200, R201, R206 (which the spec marks as derived): a value set by set-delay is read by a get-delay
as the value less the number of committed cycles between, the set-delay's own counted, floored at 0. -/
def Obligations.DelayReadsBackCountedDown : Prop :=
  ∀ (x y : Reg) (k : Nat) (s s1 u t : State), s.fault = none → s.nextInstr = some (.setDelay x) → step s = .next s1 →
    s1.fault = none → runWhile State.leavesDelay k s1 = some u → u.nextInstr = some (.getDelay y) → step u = .next t →
    t.fault = none → (t.reg y).toNat = (s.reg x).toNat - (k + 1)

/-- Derived from R107, R109: a committed cycle presents exactly when the framebuffer is dirty (from a clean state: when
the instruction is clear-screen or draw), the image as Execute left it, and ends clean; a cycle that raises presents
nothing. That the presents are a list in the state, newest first, is the model's choice (notes/assumptions/6.md); that
a raising cycle presents nothing is R107's, by the spec's decision D8 (notes/assumptions/9.md). -/
def Obligations.PresentsExactlyWhenDirty : Prop :=
  ∀ s t : State, s.fault = none → step s = .next t →
    (t.fault ≠ none → t.presents = s.presents) ∧
    (t.fault = none → ∃ i, s.nextInstr = some i ∧ t.dirty = false ∧
      ((s.dirty = true ∨ i = .clearScreen ∨ ∃ x y n, i = .draw x y n) → t.presents = t.fb :: s.presents) ∧
      (s.dirty = false → i ≠ .clearScreen → (∀ x y n, i ≠ .draw x y n) → t.presents = s.presents))

/-- Which instructions write what, over whole cycles: memory only bcd-store, `I` only load-index and font-address, SP and
the stack only call and return, FB only clear-screen and draw, each general register only the instructions that name it,
and VF as a side effect only add-carry, sub-flag and draw. Derived from R22, R23, R25, R27, R29, R52, R110. -/
def Obligations.EachElementHasItsWriters : Prop :=
  ∀ (s t : State) (i : Instr), s.fault = none → s.nextInstr = some i → step s = .next t → t.fault = none →
    ((∀ x, i ≠ .bcdStore x) → ∀ a, t.mem.byteAt a = s.mem.byteAt a) ∧
    ((∀ nnn, i ≠ .loadIndex nnn) → (∀ x, i ≠ .fontAddress x) → t.index = s.index) ∧
    ((∀ nnn, i ≠ .call nnn) → i ≠ .ret → t.sp = s.sp) ∧
    ((∀ nnn, i ≠ .call nnn) → t.stack = s.stack) ∧
    (i ≠ .clearScreen → (∀ x y n, i ≠ .draw x y n) → t.fb = s.fb) ∧
    (∀ r, mayWrite i r = false → t.reg r = s.reg r)

/-- KEYS is read only by the key skips, RAND only by random-and, ST by no instruction: replacing it changes nothing else
that Execute answers. Derived from R28, R31, R33, R205. -/
def Obligations.InputsAreReadOnlyByTheirInstructions : Prop :=
  ∀ (i : Instr) (s : State),
    ((∀ x, i ≠ .skipKeyPressed x) → (∀ x, i ≠ .skipKeyNotPressed x) → ∀ keys : Keypad,
      exec i { s with keys := keys } = mapNext (fun t => { t with keys := keys }) (exec i s)) ∧
    ((∀ x kk, i ≠ .randomAnd x kk) → ∀ rand : Byte,
      exec i { s with rand := rand } = mapNext (fun t => { t with rand := rand }) (exec i s)) ∧
    ((∀ x, i ≠ .setSound x) → ∀ st : Byte,
      exec i { s with st := st } = mapNext (fun t => { t with st := st }) (exec i s)) ∧
    (GoodPc (s.pc.toNat + 2) → ∀ (x : Reg) (st : Byte), exec (.setSound x) { s with st := st } = exec (.setSound x) s)

/-! ### Control transfer -/

/-- R121: jump. An even target becomes PC and nothing else changes; an odd one raises. -/
def Obligations.JumpGoesToItsAddress : Prop :=
  ∀ (nnn : Addr) (s : State),
    decode (BitVec.ofNat 16 (0x1000 + nnn.toNat)) = some (.jump nnn) ∧
    (nnn.toNat % 2 = 0 → ∃ t, exec (.jump nnn) s = .next t ∧ t.pc.toNat = nnn.toNat ∧ t = { s with pc := t.pc }) ∧
    (nnn.toNat % 2 = 1 → ∃ t, exec (.jump nnn) s = .next t ∧ t.fault = some (s.errorRecord .programCounter nnn.toNat))

/-- R122: call. It pushes PC + 2 and goes to an even target; a full stack raises first, then an odd target. -/
def Obligations.CallPushesTheNextAddress : Prop :=
  ∀ (nnn : Addr) (s : State),
    decode (BitVec.ofNat 16 (0x2000 + nnn.toNat)) = some (.call nnn) ∧
    (s.sp.val = 16 → ∃ t, exec (.call nnn) s = .next t ∧ t.fault = some (s.errorRecord .stackOverflow 16)) ∧
    (s.sp.val < 16 → nnn.toNat % 2 = 1 →
      ∃ t, exec (.call nnn) s = .next t ∧ t.fault = some (s.errorRecord .programCounter nnn.toNat)) ∧
    (s.sp.val < 16 → nnn.toNat % 2 = 0 → ∃ t, exec (.call nnn) s = .next t ∧ t.pc.toNat = nnn.toNat ∧
      t.sp.val = s.sp.val + 1 ∧ t.stack[s.sp.val]? = some (s.pc + 2#16) ∧
      (∀ k, k ≠ s.sp.val → t.stack[k]? = s.stack[k]?) ∧ t = { s with pc := t.pc, sp := t.sp, stack := t.stack })

/-- R120: return. It pops the top of the stack into PC; an empty stack raises, and so does a popped address that is
odd or above 4094 (that this is only 4096 in a run is a clause of `PcErrorsAreTheListedCases`). Bits 11..8 of the word
are ignored. -/
def Obligations.ReturnPopsTheStack : Prop :=
  (∀ q : Fin 16, decode (BitVec.ofNat 16 (0x00EE + q.val * 256)) = some .ret) ∧
  ∀ s : State,
    (s.sp.val = 0 → ∃ t, exec .ret s = .next t ∧ t.fault = some (s.errorRecord .stackUnderflow 0)) ∧
    (∀ a : Word, 0 < s.sp.val → s.stack[s.sp.val - 1]? = some a →
      (GoodPc a.toNat → ∃ t, exec .ret s = .next t ∧ t.pc.toNat = a.toNat ∧ t.sp.val + 1 = s.sp.val ∧
        t = { s with pc := t.pc, sp := t.sp }) ∧
      (¬GoodPc a.toNat → ∃ t, exec .ret s = .next t ∧ t.fault = some (s.errorRecord .programCounter a.toNat)))

/-- Derived from R120, R122, R123 (which the spec marks as derived): call and return pair. Whatever committed cycles
the called code runs, as long as it never pops the slot the call pushed, the return that pops it sets PC to exactly
the instruction after the call. -/
def Obligations.CallThenMatchingReturnResumes : Prop :=
  ∀ (nnn : Addr) (k : Nat) (s t u : State), s.fault = none → s.nextInstr = some (.call nnn) → step s = .next t →
    t.fault = none → runWhile (fun q => decide (s.sp.val < q.sp.val)) k t = some u → u.sp.val = s.sp.val + 1 →
    u.nextInstr = some .ret → GoodPc (s.pc.toNat + 2) →
    ∃ r, step u = .next r ∧ r.fault = none ∧ r.pc.toNat = s.pc.toNat + 2 ∧ r.sp = s.sp

/-! ### Skips -/

/-- R130, R131: the immediate skips go to PC + 4 when their condition holds, else to PC + 2, and change nothing else; a
next PC out of bounds raises. -/
def Obligations.ImmediateSkips : Prop :=
  ∀ (x : Reg) (kk : Byte) (s : State),
    decode (BitVec.ofNat 16 (0x3000 + x.val * 256 + kk.toNat)) = some (.skipEqImm x kk) ∧
    decode (BitVec.ofNat 16 (0x4000 + x.val * 256 + kk.toNat)) = some (.skipNeImm x kk) ∧
    (∀ next : Nat, next = (if (s.reg x).toNat = kk.toNat then s.pc.toNat + 4 else s.pc.toNat + 2) →
      (GoodPc next → ∃ t, exec (.skipEqImm x kk) s = .next t ∧ t.pc.toNat = next ∧ t = { s with pc := t.pc }) ∧
      (¬GoodPc next → ∃ t, exec (.skipEqImm x kk) s = .next t ∧ t.fault = some (s.errorRecord .programCounter next))) ∧
    (∀ next : Nat, next = (if (s.reg x).toNat ≠ kk.toNat then s.pc.toNat + 4 else s.pc.toNat + 2) →
      (GoodPc next → ∃ t, exec (.skipNeImm x kk) s = .next t ∧ t.pc.toNat = next ∧ t = { s with pc := t.pc }) ∧
      (¬GoodPc next → ∃ t, exec (.skipNeImm x kk) s = .next t ∧ t.fault = some (s.errorRecord .programCounter next)))

/-- R132, R133: the key skips go to PC + 4 when the key whose number V[x] holds is pressed (not pressed), else to PC +
2, and change nothing else; a key number above 15 raises first, then a next PC out of bounds. -/
def Obligations.KeySkips : Prop :=
  ∀ (x : Reg) (s : State),
    decode (BitVec.ofNat 16 (0xE09E + x.val * 256)) = some (.skipKeyPressed x) ∧
    decode (BitVec.ofNat 16 (0xE0A1 + x.val * 256)) = some (.skipKeyNotPressed x) ∧
    (15 < (s.reg x).toNat →
      (∃ t, exec (.skipKeyPressed x) s = .next t ∧ t.fault = some (s.errorRecord .keyIndex (s.reg x).toNat)) ∧
      (∃ t, exec (.skipKeyNotPressed x) s = .next t ∧ t.fault = some (s.errorRecord .keyIndex (s.reg x).toNat))) ∧
    (∀ (h : (s.reg x).toNat < 16) (next : Nat),
      (next = (if s.keys[(s.reg x).toNat] = true then s.pc.toNat + 4 else s.pc.toNat + 2) →
        (GoodPc next → ∃ t, exec (.skipKeyPressed x) s = .next t ∧ t.pc.toNat = next ∧ t = { s with pc := t.pc }) ∧
        (¬GoodPc next → ∃ t, exec (.skipKeyPressed x) s = .next t ∧
          t.fault = some (s.errorRecord .programCounter next))) ∧
      (next = (if s.keys[(s.reg x).toNat] = false then s.pc.toNat + 4 else s.pc.toNat + 2) →
        (GoodPc next → ∃ t, exec (.skipKeyNotPressed x) s = .next t ∧ t.pc.toNat = next ∧ t = { s with pc := t.pc }) ∧
        (¬GoodPc next → ∃ t, exec (.skipKeyNotPressed x) s = .next t ∧
          t.fault = some (s.errorRecord .programCounter next))))

/-! ### Registers and arithmetic -/

/-- R140 to R143: load-imm, add-imm, copy, and: the result in V[x], no flag, PC + 2, nothing else changed. -/
def Obligations.MoveAddAndLogicResults : Prop :=
  ∀ (x y : Reg) (kk : Byte) (s : State), GoodPc (s.pc.toNat + 2) →
    (decode (BitVec.ofNat 16 (0x6000 + x.val * 256 + kk.toNat)) = some (.loadImm x kk) ∧
      ∃ t, exec (.loadImm x kk) s = .next t ∧ t.reg x = kk ∧ t.pc.toNat = s.pc.toNat + 2 ∧ RegisterFrame [x] s t) ∧
    (decode (BitVec.ofNat 16 (0x7000 + x.val * 256 + kk.toNat)) = some (.addImm x kk) ∧
      ∃ t, exec (.addImm x kk) s = .next t ∧ (t.reg x).toNat = ((s.reg x).toNat + kk.toNat) % 256 ∧
        t.pc.toNat = s.pc.toNat + 2 ∧ RegisterFrame [x] s t) ∧
    (decode (BitVec.ofNat 16 (0x8000 + x.val * 256 + y.val * 16)) = some (.copy x y) ∧
      ∃ t, exec (.copy x y) s = .next t ∧ t.reg x = s.reg y ∧ t.pc.toNat = s.pc.toNat + 2 ∧ RegisterFrame [x] s t) ∧
    (decode (BitVec.ofNat 16 (0x8002 + x.val * 256 + y.val * 16)) = some (.and x y) ∧
      ∃ t, exec (.and x y) s = .next t ∧ (∀ k, (t.reg x).getLsbD k = ((s.reg x).getLsbD k && (s.reg y).getLsbD k)) ∧
        t.pc.toNat = s.pc.toNat + 2 ∧ RegisterFrame [x] s t)

/-- R144: add-carry: the sum modulo 256 in V[x], then VF is the carry, which it is also when x is 15. -/
def Obligations.AddCarryResultAndFlag : Prop :=
  ∀ (x y : Reg) (s : State), GoodPc (s.pc.toNat + 2) →
    decode (BitVec.ofNat 16 (0x8004 + x.val * 256 + y.val * 16)) = some (.addCarry x y) ∧
    ∃ t, exec (.addCarry x y) s = .next t ∧
      (x.val ≠ 15 → (t.reg x).toNat = ((s.reg x).toNat + (s.reg y).toNat) % 256) ∧
      (t.reg 15).toNat = (if (s.reg x).toNat + (s.reg y).toNat > 255 then 1 else 0) ∧
      t.pc.toNat = s.pc.toNat + 2 ∧ RegisterFrame [x, 15] s t

/-- R145 (its corners are decision D13 of the spec, notes/assumptions/1.md): sub-flag: VF is written first with the
strict comparison, then V[x] with the difference modulo 256 of the registers as they then stand; the corners x = 15
and y = 15 follow (decision D13). -/
def Obligations.SubFlagResultAndFlag : Prop :=
  ∀ (x y : Reg) (s : State), GoodPc (s.pc.toNat + 2) →
    decode (BitVec.ofNat 16 (0x8005 + x.val * 256 + y.val * 16)) = some (.subFlag x y) ∧
    ∀ flag : Nat, flag = (if (s.reg x).toNat > (s.reg y).toNat then 1 else 0) →
      ∃ t, exec (.subFlag x y) s = .next t ∧
        (x.val ≠ 15 → (t.reg 15).toNat = flag) ∧
        (x.val ≠ 15 → y.val ≠ 15 → (t.reg x).toNat = ((s.reg x).toNat + 256 - (s.reg y).toNat) % 256) ∧
        (x.val ≠ 15 → y.val = 15 → (t.reg x).toNat = ((s.reg x).toNat + 256 - flag) % 256) ∧
        (x.val = 15 → y.val ≠ 15 → (t.reg 15).toNat = (flag + 256 - (s.reg y).toNat) % 256) ∧
        (x.val = 15 → y.val = 15 → (t.reg 15).toNat = 0) ∧
        t.pc.toNat = s.pc.toNat + 2 ∧ RegisterFrame [x, 15] s t

/-- R146: random-and: V[x] is RAND and kk, in every state and so for every value of RAND; no bit outside kk is set. -/
def Obligations.RandomAndMasksTheRandomByte : Prop :=
  ∀ (x : Reg) (kk : Byte) (s : State), GoodPc (s.pc.toNat + 2) →
    decode (BitVec.ofNat 16 (0xC000 + x.val * 256 + kk.toNat)) = some (.randomAnd x kk) ∧
    ∃ t, exec (.randomAnd x kk) s = .next t ∧
      (∀ k, (t.reg x).getLsbD k = (s.rand.getLsbD k && kk.getLsbD k)) ∧ t.reg x &&& ~~~kk = 0#8 ∧
      t.pc.toNat = s.pc.toNat + 2 ∧ RegisterFrame [x] s t

/-! ### Index and memory -/

/-- R160, R161: load-index and font-address set `I` and change nothing else. -/
def Obligations.IndexResults : Prop :=
  ∀ (x : Reg) (nnn : Addr) (s : State), GoodPc (s.pc.toNat + 2) →
    (decode (BitVec.ofNat 16 (0xA000 + nnn.toNat)) = some (.loadIndex nnn) ∧
      ∃ t, exec (.loadIndex nnn) s = .next t ∧ t.index.toNat = nnn.toNat ∧ t.pc.toNat = s.pc.toNat + 2 ∧
        (∀ a, t.mem.byteAt a = s.mem.byteAt a) ∧ t = { s with index := t.index, pc := t.pc }) ∧
    (decode (BitVec.ofNat 16 (0xF029 + x.val * 256)) = some (.fontAddress x) ∧
      ∃ t, exec (.fontAddress x) s = .next t ∧ t.index.toNat = (s.reg x).toNat * 5 ∧ t.pc.toNat = s.pc.toNat + 2 ∧
        (∀ a, t.mem.byteAt a = s.mem.byteAt a) ∧ t = { s with index := t.index, pc := t.pc })

/-- R162: bcd-store: the three decimal digits at the effective addresses 0, 1 and 2, every other byte and element as
before; a block that would pass 4095 raises. Memory is in canonical form, as in every state of a run. -/
def Obligations.BcdStoreWritesThreeDigits : Prop :=
  ∀ (x : Reg) (s : State), s.mem.wf = true →
    decode (BitVec.ofNat 16 (0xF033 + x.val * 256)) = some (.bcdStore x) ∧
    (s.index.toNat + 2 > 4095 → ∃ t, exec (.bcdStore x) s = .next t ∧
      t.fault = some (s.errorRecord .memory (s.index.toNat + 2))) ∧
    (s.index.toNat + 2 ≤ 4095 → GoodPc (s.pc.toNat + 2) → ∃ t, exec (.bcdStore x) s = .next t ∧
      (t.mem.byteAt (s.effAddr 0)).toNat = (s.reg x).toNat / 100 ∧
      (t.mem.byteAt (s.effAddr 1)).toNat = (s.reg x).toNat / 10 % 10 ∧
      (t.mem.byteAt (s.effAddr 2)).toNat = (s.reg x).toNat % 10 ∧
      100 * (t.mem.byteAt (s.effAddr 0)).toNat + 10 * (t.mem.byteAt (s.effAddr 1)).toNat +
        (t.mem.byteAt (s.effAddr 2)).toNat = (s.reg x).toNat ∧
      (∀ a, a ≠ s.effAddr 0 → a ≠ s.effAddr 1 → a ≠ s.effAddr 2 → t.mem.byteAt a = s.mem.byteAt a) ∧
      t.pc.toNat = s.pc.toNat + 2 ∧ t = { s with mem := t.mem, pc := t.pc })

/-- R163: reg-load: V[0]..V[x] are the bytes at I..I+x, every other register, memory and `I` as before; a block that
would pass 4095 raises. -/
def Obligations.RegLoadFillsTheBlock : Prop :=
  ∀ (x : Reg) (s : State),
    decode (BitVec.ofNat 16 (0xF065 + x.val * 256)) = some (.regLoad x) ∧
    (s.index.toNat + x.val > 4095 → ∃ t, exec (.regLoad x) s = .next t ∧
      t.fault = some (s.errorRecord .memory (s.index.toNat + x.val))) ∧
    (s.index.toNat + x.val ≤ 4095 → GoodPc (s.pc.toNat + 2) → ∃ t, exec (.regLoad x) s = .next t ∧
      (∀ r : Reg, r.val ≤ x.val → t.reg r = s.mem.byteAt (s.index.toNat + r.val)) ∧
      (∀ r : Reg, x.val < r.val → t.reg r = s.reg r) ∧ (∀ a, t.mem.byteAt a = s.mem.byteAt a) ∧
      t.pc.toNat = s.pc.toNat + 2 ∧ t = { s with v := t.v, pc := t.pc })

/-- Memory in canonical form is determined by what it reads as; derived from R50, R58, R60 and the model's
representation. -/
def Obligations.CanonicalMemoriesThatReadAlikeAreEqual : Prop :=
  ∀ m m' : Memory, m.wf = true → m'.wf = true → (∀ a, a < 4096 → m.byteAt a = m'.byteAt a) → m = m'

/-- The bytes a bcd-store writes are what the next cycle fetches where it fetches from them, with nothing between;
derived from R63, R162. -/
def Obligations.StoredBytesAreFetchedNext : Prop :=
  ∀ (x : Reg) (s t : State), s.mem.wf = true → s.fault = none → s.nextInstr = some (.bcdStore x) → step s = .next t →
    t.fault = none → ∀ byte : Nat → Nat,
      (byte = fun a => if a = s.index.toNat then (s.reg x).toNat / 100
        else if a = s.index.toNat + 1 then (s.reg x).toNat / 10 % 10
        else if a = s.index.toNat + 2 then (s.reg x).toNat % 10 else (s.mem.byteAt a).toNat) →
      t.fetchWord = some (BitVec.ofNat 16 (byte (s.pc.toNat + 2) * 256 + byte (s.pc.toNat + 3)))

/-! ### The framebuffer engine -/

/-- R186: clear-screen: every pixel 0, DIRTY set, nothing else. Bits 11..8 of the word are ignored. -/
def Obligations.ClearScreenBlanksTheFramebuffer : Prop :=
  (∀ q : Fin 16, decode (BitVec.ofNat 16 (0x00E0 + q.val * 256)) = some .clearScreen) ∧
  ∀ s : State, GoodPc (s.pc.toNat + 2) → ∃ t, exec .clearScreen s = .next t ∧ (∀ p, t.fb.lit p = false) ∧
    t.dirty = true ∧ (∀ a, t.mem.byteAt a = s.mem.byteAt a) ∧ t.pc.toNat = s.pc.toNat + 2 ∧
    t = { s with fb := t.fb, dirty := t.dirty, pc := t.pc }

/-- Derived from R180 to R183, R185, R187: draw, pixel by pixel: a pixel is inverted exactly when a set sprite bit has
it as its wrapped target; VF is 1 exactly when one of those was lit before, else 0; DIRTY is set; PC is PC + 2; no
other register changes; a sprite that would pass 4095 raises. This is all of R187 but for one sentence, its testable
property `Drawing the same sprite twice at the same coordinates is idempotent: …`, whose clause `the flag register is 1
on the second draw` does not hold in general (`DrawingTwiceRestoresTheFramebuffer`, notes/assumptions/17.md). VF = 0
with no collision is the spec's decision D4, the origin read first its D5 (notes/assumptions/1.md). -/
def Obligations.DrawXorsEveryPixelOfTheSprite : Prop :=
  ∀ (x y : Reg) (n : Fin 16) (s : State),
    decode (BitVec.ofNat 16 (0xD000 + x.val * 256 + y.val * 16 + n.val)) = some (.draw x y n) ∧
    (¬s.SpriteInMemory n.val → ∃ t, exec (.draw x y n) s = .next t ∧
      t.fault = some (s.errorRecord .memory (s.index.toNat + n.val - 1))) ∧
    (s.SpriteInMemory n.val → GoodPc (s.pc.toNat + 2) → ∃ t, exec (.draw x y n) s = .next t ∧
      (∀ p, s.SpriteLights (s.reg x).toNat (s.reg y).toNat n.val p → t.fb.lit p = !s.fb.lit p) ∧
      (∀ p, ¬s.SpriteLights (s.reg x).toNat (s.reg y).toNat n.val p → t.fb.lit p = s.fb.lit p) ∧
      ((∃ p, s.SpriteLights (s.reg x).toNat (s.reg y).toNat n.val p ∧ s.fb.lit p = true) → t.reg 15 = 1#8) ∧
      ((∀ p, s.SpriteLights (s.reg x).toNat (s.reg y).toNat n.val p → s.fb.lit p = false) → t.reg 15 = 0#8) ∧
      (∀ r : Reg, r.val ≠ 15 → t.reg r = s.reg r) ∧ t.dirty = true ∧ (∀ a, t.mem.byteAt a = s.mem.byteAt a) ∧
      t.pc.toNat = s.pc.toNat + 2 ∧ t = { s with v := t.v, fb := t.fb, dirty := t.dirty, pc := t.pc })

/-- Derived from R180, R181, R184 (which the spec marks as derived): the set bits of a sprite of at most 15 rows have
pairwise distinct targets. -/
def Obligations.NoPixelIsHitTwice : Prop :=
  ∀ (ox oy : Nat) (rows : List Byte), rows.length ≤ 15 → (spriteTargets ox oy 0 rows).Nodup

/-- Derived from R182, R183 and R187's pseudocode: drawing the same sprite twice at the same place restores the
framebuffer, and VF is 1 after the second draw exactly when the sprite has a set bit whose pixel was unlit at first.
This CORRECTS the flag clause of R187's testable property and of 95_test_vectors.md L1-5, `the flag register is 1 on
the second draw`, which R187's own pseudocode contradicts where every target was lit at first
(notes/assumptions/17.md). x and y are not 15, so that VF does not move the sprite. -/
def Obligations.DrawingTwiceRestoresTheFramebuffer : Prop :=
  ∀ (x y : Reg) (n : Fin 16) (s : State), x.val ≠ 15 → y.val ≠ 15 → s.SpriteInMemory n.val →
    GoodPc (s.pc.toNat + 2) → GoodPc (s.pc.toNat + 4) →
    ∃ t u, exec (.draw x y n) s = .next t ∧ exec (.draw x y n) t = .next u ∧ u.fb = s.fb ∧ u.fault = s.fault ∧
      (u.reg 15 = 1#8 ↔ ∃ p, s.SpriteLights (s.reg x).toNat (s.reg y).toNat n.val p ∧ s.fb.lit p = false)

/-! ### Timers -/

/-- R202, R203, R204: get-delay, set-delay, set-sound, and the timer values at the end of their own cycle. -/
def Obligations.TimerInstructionResults : Prop :=
  ∀ (x : Reg) (s : State), GoodPc (s.pc.toNat + 2) →
    (decode (BitVec.ofNat 16 (0xF007 + x.val * 256)) = some (.getDelay x) ∧
      ∃ t, exec (.getDelay x) s = .next t ∧ t.reg x = s.dt ∧ t.pc.toNat = s.pc.toNat + 2 ∧ RegisterFrame [x] s t) ∧
    (decode (BitVec.ofNat 16 (0xF015 + x.val * 256)) = some (.setDelay x) ∧
      ∃ t, exec (.setDelay x) s = .next t ∧ t.dt = s.reg x ∧ t.tickTimers.dt.toNat = (s.reg x).toNat - 1 ∧
        t.pc.toNat = s.pc.toNat + 2 ∧ (∀ a, t.mem.byteAt a = s.mem.byteAt a) ∧ t = { s with dt := t.dt, pc := t.pc }) ∧
    (decode (BitVec.ofNat 16 (0xF018 + x.val * 256)) = some (.setSound x) ∧
      ∃ t, exec (.setSound x) s = .next t ∧ t.st = s.reg x ∧ t.tickTimers.st.toNat = (s.reg x).toNat - 1 ∧
        t.pc.toNat = s.pc.toNat + 2 ∧ (∀ a, t.mem.byteAt a = s.mem.byteAt a) ∧ t = { s with st := t.st, pc := t.pc })

/-! ### The input collaborator -/

/-- R232's table of physical and logical keys, and that a key transition sets the bit of its logical key and no other.
-/
def Obligations.KeyTransitionsFollowTheTable : Prop :=
  (Config.logicalKey .k1 = 0x1 ∧ Config.logicalKey .k2 = 0x2 ∧ Config.logicalKey .k3 = 0x3 ∧ Config.logicalKey .k4 = 0xC ∧
   Config.logicalKey .kQ = 0x4 ∧ Config.logicalKey .kW = 0x5 ∧ Config.logicalKey .kE = 0x6 ∧ Config.logicalKey .kR = 0xD ∧
   Config.logicalKey .kA = 0x7 ∧ Config.logicalKey .kS = 0x8 ∧ Config.logicalKey .kD = 0x9 ∧ Config.logicalKey .kF = 0xE ∧
   Config.logicalKey .kZ = 0xA ∧ Config.logicalKey .kX = 0x0 ∧ Config.logicalKey .kC = 0xB ∧ Config.logicalKey .kV = 0xF) ∧
  ∀ (keys : Keypad) (key : Config.PhysicalKey) (pressed : Bool) (k : Fin 16),
    (keys.transition key pressed)[k.val] = if k = Config.logicalKey key then pressed else keys[k.val]
end

