-- ==== Sys2Proof/Laws/State.lean ====
section
/-! SUPPORT. What each update of the state leaves as it was, one lemma per field and update, and what the plain updates
write; so that no later proof unfolds a record update. -/

namespace Sys2Proof.Machine

/-! ### writeReg -/

@[simp] theorem State.writeReg_mem (s : State) (x : Reg) (b : Byte) : (s.writeReg x b).mem = s.mem := rfl

@[simp] theorem State.writeReg_index (s : State) (x : Reg) (b : Byte) : (s.writeReg x b).index = s.index := rfl

@[simp] theorem State.writeReg_pc (s : State) (x : Reg) (b : Byte) : (s.writeReg x b).pc = s.pc := rfl

@[simp] theorem State.writeReg_sp (s : State) (x : Reg) (b : Byte) : (s.writeReg x b).sp = s.sp := rfl

@[simp] theorem State.writeReg_stack (s : State) (x : Reg) (b : Byte) : (s.writeReg x b).stack = s.stack := rfl

@[simp] theorem State.writeReg_dt (s : State) (x : Reg) (b : Byte) : (s.writeReg x b).dt = s.dt := rfl

@[simp] theorem State.writeReg_st (s : State) (x : Reg) (b : Byte) : (s.writeReg x b).st = s.st := rfl

@[simp] theorem State.writeReg_fb (s : State) (x : Reg) (b : Byte) : (s.writeReg x b).fb = s.fb := rfl

@[simp] theorem State.writeReg_dirty (s : State) (x : Reg) (b : Byte) : (s.writeReg x b).dirty = s.dirty := rfl

@[simp] theorem State.writeReg_fault (s : State) (x : Reg) (b : Byte) : (s.writeReg x b).fault = s.fault := rfl

@[simp] theorem State.writeReg_keys (s : State) (x : Reg) (b : Byte) : (s.writeReg x b).keys = s.keys := rfl

@[simp] theorem State.writeReg_rand (s : State) (x : Reg) (b : Byte) : (s.writeReg x b).rand = s.rand := rfl

@[simp] theorem State.writeReg_inputs (s : State) (x : Reg) (b : Byte) : (s.writeReg x b).inputs = s.inputs := rfl

@[simp] theorem State.writeReg_freeCount (s : State) (x : Reg) (b : Byte) : (s.writeReg x b).freeCount = s.freeCount := rfl

@[simp] theorem State.writeReg_presents (s : State) (x : Reg) (b : Byte) : (s.writeReg x b).presents = s.presents := rfl

/-! ### writeFlag -/

@[simp] theorem State.writeFlag_mem (s : State) (b : Byte) : (s.writeFlag b).mem = s.mem := rfl

@[simp] theorem State.writeFlag_index (s : State) (b : Byte) : (s.writeFlag b).index = s.index := rfl

@[simp] theorem State.writeFlag_pc (s : State) (b : Byte) : (s.writeFlag b).pc = s.pc := rfl

@[simp] theorem State.writeFlag_sp (s : State) (b : Byte) : (s.writeFlag b).sp = s.sp := rfl

@[simp] theorem State.writeFlag_stack (s : State) (b : Byte) : (s.writeFlag b).stack = s.stack := rfl

@[simp] theorem State.writeFlag_dt (s : State) (b : Byte) : (s.writeFlag b).dt = s.dt := rfl

@[simp] theorem State.writeFlag_st (s : State) (b : Byte) : (s.writeFlag b).st = s.st := rfl

@[simp] theorem State.writeFlag_fb (s : State) (b : Byte) : (s.writeFlag b).fb = s.fb := rfl

@[simp] theorem State.writeFlag_dirty (s : State) (b : Byte) : (s.writeFlag b).dirty = s.dirty := rfl

@[simp] theorem State.writeFlag_fault (s : State) (b : Byte) : (s.writeFlag b).fault = s.fault := rfl

@[simp] theorem State.writeFlag_keys (s : State) (b : Byte) : (s.writeFlag b).keys = s.keys := rfl

@[simp] theorem State.writeFlag_rand (s : State) (b : Byte) : (s.writeFlag b).rand = s.rand := rfl

@[simp] theorem State.writeFlag_inputs (s : State) (b : Byte) : (s.writeFlag b).inputs = s.inputs := rfl

@[simp] theorem State.writeFlag_freeCount (s : State) (b : Byte) : (s.writeFlag b).freeCount = s.freeCount := rfl

@[simp] theorem State.writeFlag_presents (s : State) (b : Byte) : (s.writeFlag b).presents = s.presents := rfl

/-! ### addCarry -/

@[simp] theorem State.addCarry_mem (s : State) (x y : Reg) : (s.addCarry x y).mem = s.mem := rfl

@[simp] theorem State.addCarry_index (s : State) (x y : Reg) : (s.addCarry x y).index = s.index := rfl

@[simp] theorem State.addCarry_pc (s : State) (x y : Reg) : (s.addCarry x y).pc = s.pc := rfl

@[simp] theorem State.addCarry_sp (s : State) (x y : Reg) : (s.addCarry x y).sp = s.sp := rfl

@[simp] theorem State.addCarry_stack (s : State) (x y : Reg) : (s.addCarry x y).stack = s.stack := rfl

@[simp] theorem State.addCarry_dt (s : State) (x y : Reg) : (s.addCarry x y).dt = s.dt := rfl

@[simp] theorem State.addCarry_st (s : State) (x y : Reg) : (s.addCarry x y).st = s.st := rfl

@[simp] theorem State.addCarry_fb (s : State) (x y : Reg) : (s.addCarry x y).fb = s.fb := rfl

@[simp] theorem State.addCarry_dirty (s : State) (x y : Reg) : (s.addCarry x y).dirty = s.dirty := rfl

@[simp] theorem State.addCarry_fault (s : State) (x y : Reg) : (s.addCarry x y).fault = s.fault := rfl

@[simp] theorem State.addCarry_keys (s : State) (x y : Reg) : (s.addCarry x y).keys = s.keys := rfl

@[simp] theorem State.addCarry_rand (s : State) (x y : Reg) : (s.addCarry x y).rand = s.rand := rfl

@[simp] theorem State.addCarry_inputs (s : State) (x y : Reg) : (s.addCarry x y).inputs = s.inputs := rfl

@[simp] theorem State.addCarry_freeCount (s : State) (x y : Reg) : (s.addCarry x y).freeCount = s.freeCount := rfl

@[simp] theorem State.addCarry_presents (s : State) (x y : Reg) : (s.addCarry x y).presents = s.presents := rfl

/-! ### subFlagFirst -/

@[simp] theorem State.subFlagFirst_mem (s : State) (x y : Reg) : (s.subFlagFirst x y).mem = s.mem := rfl

@[simp] theorem State.subFlagFirst_index (s : State) (x y : Reg) : (s.subFlagFirst x y).index = s.index := rfl

@[simp] theorem State.subFlagFirst_pc (s : State) (x y : Reg) : (s.subFlagFirst x y).pc = s.pc := rfl

@[simp] theorem State.subFlagFirst_sp (s : State) (x y : Reg) : (s.subFlagFirst x y).sp = s.sp := rfl

@[simp] theorem State.subFlagFirst_stack (s : State) (x y : Reg) : (s.subFlagFirst x y).stack = s.stack := rfl

@[simp] theorem State.subFlagFirst_dt (s : State) (x y : Reg) : (s.subFlagFirst x y).dt = s.dt := rfl

@[simp] theorem State.subFlagFirst_st (s : State) (x y : Reg) : (s.subFlagFirst x y).st = s.st := rfl

@[simp] theorem State.subFlagFirst_fb (s : State) (x y : Reg) : (s.subFlagFirst x y).fb = s.fb := rfl

@[simp] theorem State.subFlagFirst_dirty (s : State) (x y : Reg) : (s.subFlagFirst x y).dirty = s.dirty := rfl

@[simp] theorem State.subFlagFirst_fault (s : State) (x y : Reg) : (s.subFlagFirst x y).fault = s.fault := rfl

@[simp] theorem State.subFlagFirst_keys (s : State) (x y : Reg) : (s.subFlagFirst x y).keys = s.keys := rfl

@[simp] theorem State.subFlagFirst_rand (s : State) (x y : Reg) : (s.subFlagFirst x y).rand = s.rand := rfl

@[simp] theorem State.subFlagFirst_inputs (s : State) (x y : Reg) : (s.subFlagFirst x y).inputs = s.inputs := rfl

@[simp] theorem State.subFlagFirst_freeCount (s : State) (x y : Reg) : (s.subFlagFirst x y).freeCount = s.freeCount := rfl

@[simp] theorem State.subFlagFirst_presents (s : State) (x y : Reg) : (s.subFlagFirst x y).presents = s.presents := rfl

/-! ### subSecond -/

@[simp] theorem State.subSecond_mem (s : State) (x y : Reg) : (s.subSecond x y).mem = s.mem := rfl

@[simp] theorem State.subSecond_index (s : State) (x y : Reg) : (s.subSecond x y).index = s.index := rfl

@[simp] theorem State.subSecond_pc (s : State) (x y : Reg) : (s.subSecond x y).pc = s.pc := rfl

@[simp] theorem State.subSecond_sp (s : State) (x y : Reg) : (s.subSecond x y).sp = s.sp := rfl

@[simp] theorem State.subSecond_stack (s : State) (x y : Reg) : (s.subSecond x y).stack = s.stack := rfl

@[simp] theorem State.subSecond_dt (s : State) (x y : Reg) : (s.subSecond x y).dt = s.dt := rfl

@[simp] theorem State.subSecond_st (s : State) (x y : Reg) : (s.subSecond x y).st = s.st := rfl

@[simp] theorem State.subSecond_fb (s : State) (x y : Reg) : (s.subSecond x y).fb = s.fb := rfl

@[simp] theorem State.subSecond_dirty (s : State) (x y : Reg) : (s.subSecond x y).dirty = s.dirty := rfl

@[simp] theorem State.subSecond_fault (s : State) (x y : Reg) : (s.subSecond x y).fault = s.fault := rfl

@[simp] theorem State.subSecond_keys (s : State) (x y : Reg) : (s.subSecond x y).keys = s.keys := rfl

@[simp] theorem State.subSecond_rand (s : State) (x y : Reg) : (s.subSecond x y).rand = s.rand := rfl

@[simp] theorem State.subSecond_inputs (s : State) (x y : Reg) : (s.subSecond x y).inputs = s.inputs := rfl

@[simp] theorem State.subSecond_freeCount (s : State) (x y : Reg) : (s.subSecond x y).freeCount = s.freeCount := rfl

@[simp] theorem State.subSecond_presents (s : State) (x y : Reg) : (s.subSecond x y).presents = s.presents := rfl

/-! ### setMem -/

@[simp] theorem State.setMem_v (s : State) (m : Memory) : (s.setMem m).v = s.v := rfl

@[simp] theorem State.setMem_index (s : State) (m : Memory) : (s.setMem m).index = s.index := rfl

@[simp] theorem State.setMem_pc (s : State) (m : Memory) : (s.setMem m).pc = s.pc := rfl

@[simp] theorem State.setMem_sp (s : State) (m : Memory) : (s.setMem m).sp = s.sp := rfl

@[simp] theorem State.setMem_stack (s : State) (m : Memory) : (s.setMem m).stack = s.stack := rfl

@[simp] theorem State.setMem_dt (s : State) (m : Memory) : (s.setMem m).dt = s.dt := rfl

@[simp] theorem State.setMem_st (s : State) (m : Memory) : (s.setMem m).st = s.st := rfl

@[simp] theorem State.setMem_fb (s : State) (m : Memory) : (s.setMem m).fb = s.fb := rfl

@[simp] theorem State.setMem_dirty (s : State) (m : Memory) : (s.setMem m).dirty = s.dirty := rfl

@[simp] theorem State.setMem_fault (s : State) (m : Memory) : (s.setMem m).fault = s.fault := rfl

@[simp] theorem State.setMem_keys (s : State) (m : Memory) : (s.setMem m).keys = s.keys := rfl

@[simp] theorem State.setMem_rand (s : State) (m : Memory) : (s.setMem m).rand = s.rand := rfl

@[simp] theorem State.setMem_inputs (s : State) (m : Memory) : (s.setMem m).inputs = s.inputs := rfl

@[simp] theorem State.setMem_freeCount (s : State) (m : Memory) : (s.setMem m).freeCount = s.freeCount := rfl

@[simp] theorem State.setMem_presents (s : State) (m : Memory) : (s.setMem m).presents = s.presents := rfl

@[simp] theorem State.setMem_reg (s : State) (m : Memory) (q : Reg) : (s.setMem m).reg q = s.reg q := by
  simp [State.reg]

/-! ### setIndex -/

@[simp] theorem State.setIndex_mem (s : State) (w : Word) : (s.setIndex w).mem = s.mem := rfl

@[simp] theorem State.setIndex_v (s : State) (w : Word) : (s.setIndex w).v = s.v := rfl

@[simp] theorem State.setIndex_pc (s : State) (w : Word) : (s.setIndex w).pc = s.pc := rfl

@[simp] theorem State.setIndex_sp (s : State) (w : Word) : (s.setIndex w).sp = s.sp := rfl

@[simp] theorem State.setIndex_stack (s : State) (w : Word) : (s.setIndex w).stack = s.stack := rfl

@[simp] theorem State.setIndex_dt (s : State) (w : Word) : (s.setIndex w).dt = s.dt := rfl

@[simp] theorem State.setIndex_st (s : State) (w : Word) : (s.setIndex w).st = s.st := rfl

@[simp] theorem State.setIndex_fb (s : State) (w : Word) : (s.setIndex w).fb = s.fb := rfl

@[simp] theorem State.setIndex_dirty (s : State) (w : Word) : (s.setIndex w).dirty = s.dirty := rfl

@[simp] theorem State.setIndex_fault (s : State) (w : Word) : (s.setIndex w).fault = s.fault := rfl

@[simp] theorem State.setIndex_keys (s : State) (w : Word) : (s.setIndex w).keys = s.keys := rfl

@[simp] theorem State.setIndex_rand (s : State) (w : Word) : (s.setIndex w).rand = s.rand := rfl

@[simp] theorem State.setIndex_inputs (s : State) (w : Word) : (s.setIndex w).inputs = s.inputs := rfl

@[simp] theorem State.setIndex_freeCount (s : State) (w : Word) : (s.setIndex w).freeCount = s.freeCount := rfl

@[simp] theorem State.setIndex_presents (s : State) (w : Word) : (s.setIndex w).presents = s.presents := rfl

@[simp] theorem State.setIndex_reg (s : State) (w : Word) (q : Reg) : (s.setIndex w).reg q = s.reg q := by
  simp [State.reg]

/-! ### setDelay -/

@[simp] theorem State.setDelay_mem (s : State) (b : Byte) : (s.setDelay b).mem = s.mem := rfl

@[simp] theorem State.setDelay_v (s : State) (b : Byte) : (s.setDelay b).v = s.v := rfl

@[simp] theorem State.setDelay_index (s : State) (b : Byte) : (s.setDelay b).index = s.index := rfl

@[simp] theorem State.setDelay_pc (s : State) (b : Byte) : (s.setDelay b).pc = s.pc := rfl

@[simp] theorem State.setDelay_sp (s : State) (b : Byte) : (s.setDelay b).sp = s.sp := rfl

@[simp] theorem State.setDelay_stack (s : State) (b : Byte) : (s.setDelay b).stack = s.stack := rfl

@[simp] theorem State.setDelay_st (s : State) (b : Byte) : (s.setDelay b).st = s.st := rfl

@[simp] theorem State.setDelay_fb (s : State) (b : Byte) : (s.setDelay b).fb = s.fb := rfl

@[simp] theorem State.setDelay_dirty (s : State) (b : Byte) : (s.setDelay b).dirty = s.dirty := rfl

@[simp] theorem State.setDelay_fault (s : State) (b : Byte) : (s.setDelay b).fault = s.fault := rfl

@[simp] theorem State.setDelay_keys (s : State) (b : Byte) : (s.setDelay b).keys = s.keys := rfl

@[simp] theorem State.setDelay_rand (s : State) (b : Byte) : (s.setDelay b).rand = s.rand := rfl

@[simp] theorem State.setDelay_inputs (s : State) (b : Byte) : (s.setDelay b).inputs = s.inputs := rfl

@[simp] theorem State.setDelay_freeCount (s : State) (b : Byte) : (s.setDelay b).freeCount = s.freeCount := rfl

@[simp] theorem State.setDelay_presents (s : State) (b : Byte) : (s.setDelay b).presents = s.presents := rfl

@[simp] theorem State.setDelay_reg (s : State) (b : Byte) (q : Reg) : (s.setDelay b).reg q = s.reg q := by
  simp [State.reg]

/-! ### setSound -/

@[simp] theorem State.setSound_mem (s : State) (b : Byte) : (s.setSound b).mem = s.mem := rfl

@[simp] theorem State.setSound_v (s : State) (b : Byte) : (s.setSound b).v = s.v := rfl

@[simp] theorem State.setSound_index (s : State) (b : Byte) : (s.setSound b).index = s.index := rfl

@[simp] theorem State.setSound_pc (s : State) (b : Byte) : (s.setSound b).pc = s.pc := rfl

@[simp] theorem State.setSound_sp (s : State) (b : Byte) : (s.setSound b).sp = s.sp := rfl

@[simp] theorem State.setSound_stack (s : State) (b : Byte) : (s.setSound b).stack = s.stack := rfl

@[simp] theorem State.setSound_dt (s : State) (b : Byte) : (s.setSound b).dt = s.dt := rfl

@[simp] theorem State.setSound_fb (s : State) (b : Byte) : (s.setSound b).fb = s.fb := rfl

@[simp] theorem State.setSound_dirty (s : State) (b : Byte) : (s.setSound b).dirty = s.dirty := rfl

@[simp] theorem State.setSound_fault (s : State) (b : Byte) : (s.setSound b).fault = s.fault := rfl

@[simp] theorem State.setSound_keys (s : State) (b : Byte) : (s.setSound b).keys = s.keys := rfl

@[simp] theorem State.setSound_rand (s : State) (b : Byte) : (s.setSound b).rand = s.rand := rfl

@[simp] theorem State.setSound_inputs (s : State) (b : Byte) : (s.setSound b).inputs = s.inputs := rfl

@[simp] theorem State.setSound_freeCount (s : State) (b : Byte) : (s.setSound b).freeCount = s.freeCount := rfl

@[simp] theorem State.setSound_presents (s : State) (b : Byte) : (s.setSound b).presents = s.presents := rfl

@[simp] theorem State.setSound_reg (s : State) (b : Byte) (q : Reg) : (s.setSound b).reg q = s.reg q := by
  simp [State.reg]

/-! ### setFault -/

@[simp] theorem State.setFault_mem (s : State) (r : FaultRecord) : (s.setFault r).mem = s.mem := rfl

@[simp] theorem State.setFault_v (s : State) (r : FaultRecord) : (s.setFault r).v = s.v := rfl

@[simp] theorem State.setFault_index (s : State) (r : FaultRecord) : (s.setFault r).index = s.index := rfl

@[simp] theorem State.setFault_pc (s : State) (r : FaultRecord) : (s.setFault r).pc = s.pc := rfl

@[simp] theorem State.setFault_sp (s : State) (r : FaultRecord) : (s.setFault r).sp = s.sp := rfl

@[simp] theorem State.setFault_stack (s : State) (r : FaultRecord) : (s.setFault r).stack = s.stack := rfl

@[simp] theorem State.setFault_dt (s : State) (r : FaultRecord) : (s.setFault r).dt = s.dt := rfl

@[simp] theorem State.setFault_st (s : State) (r : FaultRecord) : (s.setFault r).st = s.st := rfl

@[simp] theorem State.setFault_fb (s : State) (r : FaultRecord) : (s.setFault r).fb = s.fb := rfl

@[simp] theorem State.setFault_dirty (s : State) (r : FaultRecord) : (s.setFault r).dirty = s.dirty := rfl

@[simp] theorem State.setFault_keys (s : State) (r : FaultRecord) : (s.setFault r).keys = s.keys := rfl

@[simp] theorem State.setFault_rand (s : State) (r : FaultRecord) : (s.setFault r).rand = s.rand := rfl

@[simp] theorem State.setFault_inputs (s : State) (r : FaultRecord) : (s.setFault r).inputs = s.inputs := rfl

@[simp] theorem State.setFault_freeCount (s : State) (r : FaultRecord) : (s.setFault r).freeCount = s.freeCount := rfl

@[simp] theorem State.setFault_presents (s : State) (r : FaultRecord) : (s.setFault r).presents = s.presents := rfl

@[simp] theorem State.setFault_reg (s : State) (r : FaultRecord) (q : Reg) : (s.setFault r).reg q = s.reg q := by
  simp [State.reg]

/-! ### setPc -/

@[simp] theorem State.setPc_mem (s : State) (next : Nat) : (s.setPc next).mem = s.mem := rfl

@[simp] theorem State.setPc_v (s : State) (next : Nat) : (s.setPc next).v = s.v := rfl

@[simp] theorem State.setPc_index (s : State) (next : Nat) : (s.setPc next).index = s.index := rfl

@[simp] theorem State.setPc_sp (s : State) (next : Nat) : (s.setPc next).sp = s.sp := rfl

@[simp] theorem State.setPc_stack (s : State) (next : Nat) : (s.setPc next).stack = s.stack := rfl

@[simp] theorem State.setPc_dt (s : State) (next : Nat) : (s.setPc next).dt = s.dt := rfl

@[simp] theorem State.setPc_st (s : State) (next : Nat) : (s.setPc next).st = s.st := rfl

@[simp] theorem State.setPc_fb (s : State) (next : Nat) : (s.setPc next).fb = s.fb := rfl

@[simp] theorem State.setPc_dirty (s : State) (next : Nat) : (s.setPc next).dirty = s.dirty := rfl

@[simp] theorem State.setPc_fault (s : State) (next : Nat) : (s.setPc next).fault = s.fault := rfl

@[simp] theorem State.setPc_keys (s : State) (next : Nat) : (s.setPc next).keys = s.keys := rfl

@[simp] theorem State.setPc_rand (s : State) (next : Nat) : (s.setPc next).rand = s.rand := rfl

@[simp] theorem State.setPc_inputs (s : State) (next : Nat) : (s.setPc next).inputs = s.inputs := rfl

@[simp] theorem State.setPc_freeCount (s : State) (next : Nat) : (s.setPc next).freeCount = s.freeCount := rfl

@[simp] theorem State.setPc_presents (s : State) (next : Nat) : (s.setPc next).presents = s.presents := rfl

@[simp] theorem State.setPc_reg (s : State) (next : Nat) (q : Reg) : (s.setPc next).reg q = s.reg q := by
  simp [State.reg]

/-! ### loadRegs -/

@[simp] theorem State.loadRegs_mem (s : State) (n : Nat) :
    (s.loadRegs n).mem = s.mem := by
  induction n <;> simp_all [State.loadRegs]

@[simp] theorem State.loadRegs_index (s : State) (n : Nat) :
    (s.loadRegs n).index = s.index := by
  induction n <;> simp_all [State.loadRegs]

@[simp] theorem State.loadRegs_pc (s : State) (n : Nat) :
    (s.loadRegs n).pc = s.pc := by
  induction n <;> simp_all [State.loadRegs]

@[simp] theorem State.loadRegs_sp (s : State) (n : Nat) :
    (s.loadRegs n).sp = s.sp := by
  induction n <;> simp_all [State.loadRegs]

@[simp] theorem State.loadRegs_stack (s : State) (n : Nat) :
    (s.loadRegs n).stack = s.stack := by
  induction n <;> simp_all [State.loadRegs]

@[simp] theorem State.loadRegs_dt (s : State) (n : Nat) :
    (s.loadRegs n).dt = s.dt := by
  induction n <;> simp_all [State.loadRegs]

@[simp] theorem State.loadRegs_st (s : State) (n : Nat) :
    (s.loadRegs n).st = s.st := by
  induction n <;> simp_all [State.loadRegs]

@[simp] theorem State.loadRegs_fb (s : State) (n : Nat) :
    (s.loadRegs n).fb = s.fb := by
  induction n <;> simp_all [State.loadRegs]

@[simp] theorem State.loadRegs_dirty (s : State) (n : Nat) :
    (s.loadRegs n).dirty = s.dirty := by
  induction n <;> simp_all [State.loadRegs]

@[simp] theorem State.loadRegs_fault (s : State) (n : Nat) :
    (s.loadRegs n).fault = s.fault := by
  induction n <;> simp_all [State.loadRegs]

@[simp] theorem State.loadRegs_keys (s : State) (n : Nat) :
    (s.loadRegs n).keys = s.keys := by
  induction n <;> simp_all [State.loadRegs]

@[simp] theorem State.loadRegs_rand (s : State) (n : Nat) :
    (s.loadRegs n).rand = s.rand := by
  induction n <;> simp_all [State.loadRegs]

@[simp] theorem State.loadRegs_inputs (s : State) (n : Nat) :
    (s.loadRegs n).inputs = s.inputs := by
  induction n <;> simp_all [State.loadRegs]

@[simp] theorem State.loadRegs_freeCount (s : State) (n : Nat) :
    (s.loadRegs n).freeCount = s.freeCount := by
  induction n <;> simp_all [State.loadRegs]

@[simp] theorem State.loadRegs_presents (s : State) (n : Nat) :
    (s.loadRegs n).presents = s.presents := by
  induction n <;> simp_all [State.loadRegs]

/-! ### memWrite -/

@[simp] theorem State.memWrite_v (s : State) (a : Nat) (b : Byte) :
    (s.memWrite a b).v = s.v := by
  unfold State.memWrite; split <;> rfl

@[simp] theorem State.memWrite_index (s : State) (a : Nat) (b : Byte) :
    (s.memWrite a b).index = s.index := by
  unfold State.memWrite; split <;> rfl

@[simp] theorem State.memWrite_pc (s : State) (a : Nat) (b : Byte) :
    (s.memWrite a b).pc = s.pc := by
  unfold State.memWrite; split <;> rfl

@[simp] theorem State.memWrite_sp (s : State) (a : Nat) (b : Byte) :
    (s.memWrite a b).sp = s.sp := by
  unfold State.memWrite; split <;> rfl

@[simp] theorem State.memWrite_stack (s : State) (a : Nat) (b : Byte) :
    (s.memWrite a b).stack = s.stack := by
  unfold State.memWrite; split <;> rfl

@[simp] theorem State.memWrite_dt (s : State) (a : Nat) (b : Byte) :
    (s.memWrite a b).dt = s.dt := by
  unfold State.memWrite; split <;> rfl

@[simp] theorem State.memWrite_st (s : State) (a : Nat) (b : Byte) :
    (s.memWrite a b).st = s.st := by
  unfold State.memWrite; split <;> rfl

@[simp] theorem State.memWrite_fb (s : State) (a : Nat) (b : Byte) :
    (s.memWrite a b).fb = s.fb := by
  unfold State.memWrite; split <;> rfl

@[simp] theorem State.memWrite_dirty (s : State) (a : Nat) (b : Byte) :
    (s.memWrite a b).dirty = s.dirty := by
  unfold State.memWrite; split <;> rfl

@[simp] theorem State.memWrite_fault (s : State) (a : Nat) (b : Byte) :
    (s.memWrite a b).fault = s.fault := by
  unfold State.memWrite; split <;> rfl

@[simp] theorem State.memWrite_keys (s : State) (a : Nat) (b : Byte) :
    (s.memWrite a b).keys = s.keys := by
  unfold State.memWrite; split <;> rfl

@[simp] theorem State.memWrite_rand (s : State) (a : Nat) (b : Byte) :
    (s.memWrite a b).rand = s.rand := by
  unfold State.memWrite; split <;> rfl

@[simp] theorem State.memWrite_inputs (s : State) (a : Nat) (b : Byte) :
    (s.memWrite a b).inputs = s.inputs := by
  unfold State.memWrite; split <;> rfl

@[simp] theorem State.memWrite_freeCount (s : State) (a : Nat) (b : Byte) :
    (s.memWrite a b).freeCount = s.freeCount := by
  unfold State.memWrite; split <;> rfl

@[simp] theorem State.memWrite_presents (s : State) (a : Nat) (b : Byte) :
    (s.memWrite a b).presents = s.presents := by
  unfold State.memWrite; split <;> rfl

@[simp] theorem State.memWrite_reg (s : State) (a : Nat) (b : Byte) (q : Reg) : (s.memWrite a b).reg q = s.reg q := by
  simp [State.reg]

/-! ### storeBcd -/

@[simp] theorem State.storeBcd_v (s : State) (b : Byte) :
    (s.storeBcd b).v = s.v := by
  simp [State.storeBcd]

@[simp] theorem State.storeBcd_index (s : State) (b : Byte) :
    (s.storeBcd b).index = s.index := by
  simp [State.storeBcd]

@[simp] theorem State.storeBcd_pc (s : State) (b : Byte) :
    (s.storeBcd b).pc = s.pc := by
  simp [State.storeBcd]

@[simp] theorem State.storeBcd_sp (s : State) (b : Byte) :
    (s.storeBcd b).sp = s.sp := by
  simp [State.storeBcd]

@[simp] theorem State.storeBcd_stack (s : State) (b : Byte) :
    (s.storeBcd b).stack = s.stack := by
  simp [State.storeBcd]

@[simp] theorem State.storeBcd_dt (s : State) (b : Byte) :
    (s.storeBcd b).dt = s.dt := by
  simp [State.storeBcd]

@[simp] theorem State.storeBcd_st (s : State) (b : Byte) :
    (s.storeBcd b).st = s.st := by
  simp [State.storeBcd]

@[simp] theorem State.storeBcd_fb (s : State) (b : Byte) :
    (s.storeBcd b).fb = s.fb := by
  simp [State.storeBcd]

@[simp] theorem State.storeBcd_dirty (s : State) (b : Byte) :
    (s.storeBcd b).dirty = s.dirty := by
  simp [State.storeBcd]

@[simp] theorem State.storeBcd_fault (s : State) (b : Byte) :
    (s.storeBcd b).fault = s.fault := by
  simp [State.storeBcd]

@[simp] theorem State.storeBcd_keys (s : State) (b : Byte) :
    (s.storeBcd b).keys = s.keys := by
  simp [State.storeBcd]

@[simp] theorem State.storeBcd_rand (s : State) (b : Byte) :
    (s.storeBcd b).rand = s.rand := by
  simp [State.storeBcd]

@[simp] theorem State.storeBcd_inputs (s : State) (b : Byte) :
    (s.storeBcd b).inputs = s.inputs := by
  simp [State.storeBcd]

@[simp] theorem State.storeBcd_freeCount (s : State) (b : Byte) :
    (s.storeBcd b).freeCount = s.freeCount := by
  simp [State.storeBcd]

@[simp] theorem State.storeBcd_presents (s : State) (b : Byte) :
    (s.storeBcd b).presents = s.presents := by
  simp [State.storeBcd]

@[simp] theorem State.storeBcd_reg (s : State) (b : Byte) (q : Reg) : (s.storeBcd b).reg q = s.reg q := by
  simp [State.reg]

/-! ### placeWord -/

@[simp] theorem State.placeWord_v (s : State) (w : Word) :
    (s.placeWord w).v = s.v := by
  simp [State.placeWord]

@[simp] theorem State.placeWord_index (s : State) (w : Word) :
    (s.placeWord w).index = s.index := by
  simp [State.placeWord]

@[simp] theorem State.placeWord_pc (s : State) (w : Word) :
    (s.placeWord w).pc = s.pc := by
  simp [State.placeWord]

@[simp] theorem State.placeWord_sp (s : State) (w : Word) :
    (s.placeWord w).sp = s.sp := by
  simp [State.placeWord]

@[simp] theorem State.placeWord_stack (s : State) (w : Word) :
    (s.placeWord w).stack = s.stack := by
  simp [State.placeWord]

@[simp] theorem State.placeWord_dt (s : State) (w : Word) :
    (s.placeWord w).dt = s.dt := by
  simp [State.placeWord]

@[simp] theorem State.placeWord_st (s : State) (w : Word) :
    (s.placeWord w).st = s.st := by
  simp [State.placeWord]

@[simp] theorem State.placeWord_fb (s : State) (w : Word) :
    (s.placeWord w).fb = s.fb := by
  simp [State.placeWord]

@[simp] theorem State.placeWord_dirty (s : State) (w : Word) :
    (s.placeWord w).dirty = s.dirty := by
  simp [State.placeWord]

@[simp] theorem State.placeWord_fault (s : State) (w : Word) :
    (s.placeWord w).fault = s.fault := by
  simp [State.placeWord]

@[simp] theorem State.placeWord_keys (s : State) (w : Word) :
    (s.placeWord w).keys = s.keys := by
  simp [State.placeWord]

@[simp] theorem State.placeWord_rand (s : State) (w : Word) :
    (s.placeWord w).rand = s.rand := by
  simp [State.placeWord]

@[simp] theorem State.placeWord_inputs (s : State) (w : Word) :
    (s.placeWord w).inputs = s.inputs := by
  simp [State.placeWord]

@[simp] theorem State.placeWord_freeCount (s : State) (w : Word) :
    (s.placeWord w).freeCount = s.freeCount := by
  simp [State.placeWord]

@[simp] theorem State.placeWord_presents (s : State) (w : Word) :
    (s.placeWord w).presents = s.presents := by
  simp [State.placeWord]

@[simp] theorem State.placeWord_reg (s : State) (w : Word) (q : Reg) : (s.placeWord w).reg q = s.reg q := by
  simp [State.reg]

/-! ### clearFb -/

@[simp] theorem State.clearFb_mem (s : State) : (s.clearFb).mem = s.mem := rfl

@[simp] theorem State.clearFb_v (s : State) : (s.clearFb).v = s.v := rfl

@[simp] theorem State.clearFb_index (s : State) : (s.clearFb).index = s.index := rfl

@[simp] theorem State.clearFb_pc (s : State) : (s.clearFb).pc = s.pc := rfl

@[simp] theorem State.clearFb_sp (s : State) : (s.clearFb).sp = s.sp := rfl

@[simp] theorem State.clearFb_stack (s : State) : (s.clearFb).stack = s.stack := rfl

@[simp] theorem State.clearFb_dt (s : State) : (s.clearFb).dt = s.dt := rfl

@[simp] theorem State.clearFb_st (s : State) : (s.clearFb).st = s.st := rfl

@[simp] theorem State.clearFb_fault (s : State) : (s.clearFb).fault = s.fault := rfl

@[simp] theorem State.clearFb_keys (s : State) : (s.clearFb).keys = s.keys := rfl

@[simp] theorem State.clearFb_rand (s : State) : (s.clearFb).rand = s.rand := rfl

@[simp] theorem State.clearFb_inputs (s : State) : (s.clearFb).inputs = s.inputs := rfl

@[simp] theorem State.clearFb_freeCount (s : State) : (s.clearFb).freeCount = s.freeCount := rfl

@[simp] theorem State.clearFb_presents (s : State) : (s.clearFb).presents = s.presents := rfl

@[simp] theorem State.clearFb_reg (s : State) (q : Reg) : (s.clearFb).reg q = s.reg q := by
  simp [State.reg]

/-! ### compositeFb -/

@[simp] theorem State.compositeFb_mem (s : State) (ox oy : Nat) (rows : List Byte) : (s.compositeFb ox oy rows).mem = s.mem := rfl

@[simp] theorem State.compositeFb_v (s : State) (ox oy : Nat) (rows : List Byte) : (s.compositeFb ox oy rows).v = s.v := rfl

@[simp] theorem State.compositeFb_index (s : State) (ox oy : Nat) (rows : List Byte) : (s.compositeFb ox oy rows).index = s.index := rfl

@[simp] theorem State.compositeFb_pc (s : State) (ox oy : Nat) (rows : List Byte) : (s.compositeFb ox oy rows).pc = s.pc := rfl

@[simp] theorem State.compositeFb_sp (s : State) (ox oy : Nat) (rows : List Byte) : (s.compositeFb ox oy rows).sp = s.sp := rfl

@[simp] theorem State.compositeFb_stack (s : State) (ox oy : Nat) (rows : List Byte) : (s.compositeFb ox oy rows).stack = s.stack := rfl

@[simp] theorem State.compositeFb_dt (s : State) (ox oy : Nat) (rows : List Byte) : (s.compositeFb ox oy rows).dt = s.dt := rfl

@[simp] theorem State.compositeFb_st (s : State) (ox oy : Nat) (rows : List Byte) : (s.compositeFb ox oy rows).st = s.st := rfl

@[simp] theorem State.compositeFb_fault (s : State) (ox oy : Nat) (rows : List Byte) : (s.compositeFb ox oy rows).fault = s.fault := rfl

@[simp] theorem State.compositeFb_keys (s : State) (ox oy : Nat) (rows : List Byte) : (s.compositeFb ox oy rows).keys = s.keys := rfl

@[simp] theorem State.compositeFb_rand (s : State) (ox oy : Nat) (rows : List Byte) : (s.compositeFb ox oy rows).rand = s.rand := rfl

@[simp] theorem State.compositeFb_inputs (s : State) (ox oy : Nat) (rows : List Byte) : (s.compositeFb ox oy rows).inputs = s.inputs := rfl

@[simp] theorem State.compositeFb_freeCount (s : State) (ox oy : Nat) (rows : List Byte) : (s.compositeFb ox oy rows).freeCount = s.freeCount := rfl

@[simp] theorem State.compositeFb_presents (s : State) (ox oy : Nat) (rows : List Byte) : (s.compositeFb ox oy rows).presents = s.presents := rfl

@[simp] theorem State.compositeFb_reg (s : State) (ox oy : Nat) (rows : List Byte) (q : Reg) :
    (s.compositeFb ox oy rows).reg q = s.reg q := by
  simp [State.reg]

/-! ### drawSprite -/

@[simp] theorem State.drawSprite_mem (s : State) (ox oy : Nat) (rows : List Byte) : (s.drawSprite ox oy rows).mem = s.mem := rfl

@[simp] theorem State.drawSprite_index (s : State) (ox oy : Nat) (rows : List Byte) : (s.drawSprite ox oy rows).index = s.index := rfl

@[simp] theorem State.drawSprite_pc (s : State) (ox oy : Nat) (rows : List Byte) : (s.drawSprite ox oy rows).pc = s.pc := rfl

@[simp] theorem State.drawSprite_sp (s : State) (ox oy : Nat) (rows : List Byte) : (s.drawSprite ox oy rows).sp = s.sp := rfl

@[simp] theorem State.drawSprite_stack (s : State) (ox oy : Nat) (rows : List Byte) : (s.drawSprite ox oy rows).stack = s.stack := rfl

@[simp] theorem State.drawSprite_dt (s : State) (ox oy : Nat) (rows : List Byte) : (s.drawSprite ox oy rows).dt = s.dt := rfl

@[simp] theorem State.drawSprite_st (s : State) (ox oy : Nat) (rows : List Byte) : (s.drawSprite ox oy rows).st = s.st := rfl

@[simp] theorem State.drawSprite_fault (s : State) (ox oy : Nat) (rows : List Byte) : (s.drawSprite ox oy rows).fault = s.fault := rfl

@[simp] theorem State.drawSprite_keys (s : State) (ox oy : Nat) (rows : List Byte) : (s.drawSprite ox oy rows).keys = s.keys := rfl

@[simp] theorem State.drawSprite_rand (s : State) (ox oy : Nat) (rows : List Byte) : (s.drawSprite ox oy rows).rand = s.rand := rfl

@[simp] theorem State.drawSprite_inputs (s : State) (ox oy : Nat) (rows : List Byte) : (s.drawSprite ox oy rows).inputs = s.inputs := rfl

@[simp] theorem State.drawSprite_freeCount (s : State) (ox oy : Nat) (rows : List Byte) : (s.drawSprite ox oy rows).freeCount = s.freeCount := rfl

@[simp] theorem State.drawSprite_presents (s : State) (ox oy : Nat) (rows : List Byte) : (s.drawSprite ox oy rows).presents = s.presents := rfl

/-! ### sampleInputs -/

@[simp] theorem State.sampleInputs_mem (s : State) :
    (s.sampleInputs).mem = s.mem := by
  unfold State.sampleInputs; split <;> rfl

@[simp] theorem State.sampleInputs_v (s : State) :
    (s.sampleInputs).v = s.v := by
  unfold State.sampleInputs; split <;> rfl

@[simp] theorem State.sampleInputs_index (s : State) :
    (s.sampleInputs).index = s.index := by
  unfold State.sampleInputs; split <;> rfl

@[simp] theorem State.sampleInputs_pc (s : State) :
    (s.sampleInputs).pc = s.pc := by
  unfold State.sampleInputs; split <;> rfl

@[simp] theorem State.sampleInputs_sp (s : State) :
    (s.sampleInputs).sp = s.sp := by
  unfold State.sampleInputs; split <;> rfl

@[simp] theorem State.sampleInputs_stack (s : State) :
    (s.sampleInputs).stack = s.stack := by
  unfold State.sampleInputs; split <;> rfl

@[simp] theorem State.sampleInputs_dt (s : State) :
    (s.sampleInputs).dt = s.dt := by
  unfold State.sampleInputs; split <;> rfl

@[simp] theorem State.sampleInputs_st (s : State) :
    (s.sampleInputs).st = s.st := by
  unfold State.sampleInputs; split <;> rfl

@[simp] theorem State.sampleInputs_fb (s : State) :
    (s.sampleInputs).fb = s.fb := by
  unfold State.sampleInputs; split <;> rfl

@[simp] theorem State.sampleInputs_dirty (s : State) :
    (s.sampleInputs).dirty = s.dirty := by
  unfold State.sampleInputs; split <;> rfl

@[simp] theorem State.sampleInputs_fault (s : State) :
    (s.sampleInputs).fault = s.fault := by
  unfold State.sampleInputs; split <;> rfl

@[simp] theorem State.sampleInputs_presents (s : State) :
    (s.sampleInputs).presents = s.presents := by
  unfold State.sampleInputs; split <;> rfl

@[simp] theorem State.sampleInputs_reg (s : State) (q : Reg) : (s.sampleInputs).reg q = s.reg q := by
  simp [State.reg]

/-! ### tickTimers -/

@[simp] theorem State.tickTimers_mem (s : State) : (s.tickTimers).mem = s.mem := rfl

@[simp] theorem State.tickTimers_v (s : State) : (s.tickTimers).v = s.v := rfl

@[simp] theorem State.tickTimers_index (s : State) : (s.tickTimers).index = s.index := rfl

@[simp] theorem State.tickTimers_pc (s : State) : (s.tickTimers).pc = s.pc := rfl

@[simp] theorem State.tickTimers_sp (s : State) : (s.tickTimers).sp = s.sp := rfl

@[simp] theorem State.tickTimers_stack (s : State) : (s.tickTimers).stack = s.stack := rfl

@[simp] theorem State.tickTimers_fb (s : State) : (s.tickTimers).fb = s.fb := rfl

@[simp] theorem State.tickTimers_dirty (s : State) : (s.tickTimers).dirty = s.dirty := rfl

@[simp] theorem State.tickTimers_fault (s : State) : (s.tickTimers).fault = s.fault := rfl

@[simp] theorem State.tickTimers_keys (s : State) : (s.tickTimers).keys = s.keys := rfl

@[simp] theorem State.tickTimers_rand (s : State) : (s.tickTimers).rand = s.rand := rfl

@[simp] theorem State.tickTimers_inputs (s : State) : (s.tickTimers).inputs = s.inputs := rfl

@[simp] theorem State.tickTimers_freeCount (s : State) : (s.tickTimers).freeCount = s.freeCount := rfl

@[simp] theorem State.tickTimers_presents (s : State) : (s.tickTimers).presents = s.presents := rfl

@[simp] theorem State.tickTimers_reg (s : State) (q : Reg) : (s.tickTimers).reg q = s.reg q := by
  simp [State.reg]

/-! ### presentIfDirty -/

@[simp] theorem State.presentIfDirty_mem (s : State) :
    (s.presentIfDirty).mem = s.mem := by
  unfold State.presentIfDirty; split <;> rfl

@[simp] theorem State.presentIfDirty_v (s : State) :
    (s.presentIfDirty).v = s.v := by
  unfold State.presentIfDirty; split <;> rfl

@[simp] theorem State.presentIfDirty_index (s : State) :
    (s.presentIfDirty).index = s.index := by
  unfold State.presentIfDirty; split <;> rfl

@[simp] theorem State.presentIfDirty_pc (s : State) :
    (s.presentIfDirty).pc = s.pc := by
  unfold State.presentIfDirty; split <;> rfl

@[simp] theorem State.presentIfDirty_sp (s : State) :
    (s.presentIfDirty).sp = s.sp := by
  unfold State.presentIfDirty; split <;> rfl

@[simp] theorem State.presentIfDirty_stack (s : State) :
    (s.presentIfDirty).stack = s.stack := by
  unfold State.presentIfDirty; split <;> rfl

@[simp] theorem State.presentIfDirty_dt (s : State) :
    (s.presentIfDirty).dt = s.dt := by
  unfold State.presentIfDirty; split <;> rfl

@[simp] theorem State.presentIfDirty_st (s : State) :
    (s.presentIfDirty).st = s.st := by
  unfold State.presentIfDirty; split <;> rfl

@[simp] theorem State.presentIfDirty_fb (s : State) :
    (s.presentIfDirty).fb = s.fb := by
  unfold State.presentIfDirty; split <;> rfl

@[simp] theorem State.presentIfDirty_fault (s : State) :
    (s.presentIfDirty).fault = s.fault := by
  unfold State.presentIfDirty; split <;> rfl

@[simp] theorem State.presentIfDirty_keys (s : State) :
    (s.presentIfDirty).keys = s.keys := by
  unfold State.presentIfDirty; split <;> rfl

@[simp] theorem State.presentIfDirty_rand (s : State) :
    (s.presentIfDirty).rand = s.rand := by
  unfold State.presentIfDirty; split <;> rfl

@[simp] theorem State.presentIfDirty_inputs (s : State) :
    (s.presentIfDirty).inputs = s.inputs := by
  unfold State.presentIfDirty; split <;> rfl

@[simp] theorem State.presentIfDirty_freeCount (s : State) :
    (s.presentIfDirty).freeCount = s.freeCount := by
  unfold State.presentIfDirty; split <;> rfl

@[simp] theorem State.presentIfDirty_reg (s : State) (q : Reg) : (s.presentIfDirty).reg q = s.reg q := by
  simp [State.reg]

/-! ### finishCycle -/

@[simp] theorem State.finishCycle_mem (s : State) :
    (s.finishCycle).mem = s.mem := by
  unfold State.finishCycle; split <;> simp

@[simp] theorem State.finishCycle_v (s : State) :
    (s.finishCycle).v = s.v := by
  unfold State.finishCycle; split <;> simp

@[simp] theorem State.finishCycle_index (s : State) :
    (s.finishCycle).index = s.index := by
  unfold State.finishCycle; split <;> simp

@[simp] theorem State.finishCycle_pc (s : State) :
    (s.finishCycle).pc = s.pc := by
  unfold State.finishCycle; split <;> simp

@[simp] theorem State.finishCycle_sp (s : State) :
    (s.finishCycle).sp = s.sp := by
  unfold State.finishCycle; split <;> simp

@[simp] theorem State.finishCycle_stack (s : State) :
    (s.finishCycle).stack = s.stack := by
  unfold State.finishCycle; split <;> simp

@[simp] theorem State.finishCycle_fb (s : State) :
    (s.finishCycle).fb = s.fb := by
  unfold State.finishCycle; split <;> simp

@[simp] theorem State.finishCycle_fault (s : State) :
    (s.finishCycle).fault = s.fault := by
  unfold State.finishCycle; split <;> simp

@[simp] theorem State.finishCycle_keys (s : State) :
    (s.finishCycle).keys = s.keys := by
  unfold State.finishCycle; split <;> simp

@[simp] theorem State.finishCycle_rand (s : State) :
    (s.finishCycle).rand = s.rand := by
  unfold State.finishCycle; split <;> simp

@[simp] theorem State.finishCycle_inputs (s : State) :
    (s.finishCycle).inputs = s.inputs := by
  unfold State.finishCycle; split <;> simp

@[simp] theorem State.finishCycle_freeCount (s : State) :
    (s.finishCycle).freeCount = s.freeCount := by
  unfold State.finishCycle; split <;> simp

@[simp] theorem State.finishCycle_reg (s : State) (q : Reg) : (s.finishCycle).reg q = s.reg q := by
  simp [State.reg]

/-! ### offer -/

@[simp] theorem State.offer_mem (s : State) (keys : Keypad) (rand : Byte) : (s.offer keys rand).mem = s.mem := rfl

@[simp] theorem State.offer_v (s : State) (keys : Keypad) (rand : Byte) : (s.offer keys rand).v = s.v := rfl

@[simp] theorem State.offer_index (s : State) (keys : Keypad) (rand : Byte) : (s.offer keys rand).index = s.index := rfl

@[simp] theorem State.offer_pc (s : State) (keys : Keypad) (rand : Byte) : (s.offer keys rand).pc = s.pc := rfl

@[simp] theorem State.offer_sp (s : State) (keys : Keypad) (rand : Byte) : (s.offer keys rand).sp = s.sp := rfl

@[simp] theorem State.offer_stack (s : State) (keys : Keypad) (rand : Byte) : (s.offer keys rand).stack = s.stack := rfl

@[simp] theorem State.offer_dt (s : State) (keys : Keypad) (rand : Byte) : (s.offer keys rand).dt = s.dt := rfl

@[simp] theorem State.offer_st (s : State) (keys : Keypad) (rand : Byte) : (s.offer keys rand).st = s.st := rfl

@[simp] theorem State.offer_fb (s : State) (keys : Keypad) (rand : Byte) : (s.offer keys rand).fb = s.fb := rfl

@[simp] theorem State.offer_dirty (s : State) (keys : Keypad) (rand : Byte) : (s.offer keys rand).dirty = s.dirty := rfl

@[simp] theorem State.offer_fault (s : State) (keys : Keypad) (rand : Byte) : (s.offer keys rand).fault = s.fault := rfl

@[simp] theorem State.offer_keys (s : State) (keys : Keypad) (rand : Byte) : (s.offer keys rand).keys = s.keys := rfl

@[simp] theorem State.offer_rand (s : State) (keys : Keypad) (rand : Byte) : (s.offer keys rand).rand = s.rand := rfl

@[simp] theorem State.offer_freeCount (s : State) (keys : Keypad) (rand : Byte) : (s.offer keys rand).freeCount = s.freeCount := rfl

@[simp] theorem State.offer_presents (s : State) (keys : Keypad) (rand : Byte) : (s.offer keys rand).presents = s.presents := rfl

@[simp] theorem State.offer_reg (s : State) (keys : Keypad) (rand : Byte) (q : Reg) :
    (s.offer keys rand).reg q = s.reg q := by
  simp [State.reg]

/-! ### What the plain updates write -/

@[simp] theorem State.writeReg_v (s : State) (x : Reg) (b : Byte) : (s.writeReg x b).v = s.v.set x.val b := rfl

@[simp] theorem State.setMem_mem (s : State) (m : Memory) : (s.setMem m).mem = m := rfl

@[simp] theorem State.setIndex_index (s : State) (w : Word) : (s.setIndex w).index = w := rfl

@[simp] theorem State.setDelay_dt (s : State) (b : Byte) : (s.setDelay b).dt = b := rfl

@[simp] theorem State.setSound_st (s : State) (b : Byte) : (s.setSound b).st = b := rfl

@[simp] theorem State.setFault_fault (s : State) (r : FaultRecord) : (s.setFault r).fault = some r := rfl

@[simp] theorem State.setPc_pc (s : State) (next : Nat) : (s.setPc next).pc = BitVec.ofNat 16 next := rfl

@[simp] theorem State.clearFb_fb (s : State) : s.clearFb.fb = Framebuffer.blank := rfl

@[simp] theorem State.clearFb_dirty (s : State) : s.clearFb.dirty = true := rfl

@[simp] theorem State.compositeFb_fb (s : State) (ox oy : Nat) (rows : List Byte) :
    (s.compositeFb ox oy rows).fb = (composite ox oy rows s.fb).1 := rfl

@[simp] theorem State.compositeFb_dirty (s : State) (ox oy : Nat) (rows : List Byte) :
    (s.compositeFb ox oy rows).dirty = true := rfl

@[simp] theorem State.drawSprite_fb (s : State) (ox oy : Nat) (rows : List Byte) :
    (s.drawSprite ox oy rows).fb = (composite ox oy rows s.fb).1 := rfl

@[simp] theorem State.drawSprite_dirty (s : State) (ox oy : Nat) (rows : List Byte) :
    (s.drawSprite ox oy rows).dirty = true := rfl

@[simp] theorem State.tickTimers_dt (s : State) : s.tickTimers.dt = tick s.dt := rfl

@[simp] theorem State.tickTimers_st (s : State) : s.tickTimers.st = tick s.st := rfl

/-- After PresentIfDirty the dirty flag is 0 (R109). -/
@[simp] theorem State.presentIfDirty_dirty (s : State) : s.presentIfDirty.dirty = false := by
  unfold State.presentIfDirty; split <;> simp_all

theorem State.presentIfDirty_presents (s : State) :
    s.presentIfDirty.presents = if s.dirty then s.fb :: s.presents else s.presents := by
  unfold State.presentIfDirty; split <;> rfl

@[simp] theorem State.offer_inputs (s : State) (keys : Keypad) (rand : Byte) :
    (s.offer keys rand).inputs = ⟨keys, rand⟩ :: s.inputs := rfl

/-- Reading a register after a write. -/
@[simp] theorem State.reg_writeReg (s : State) (x r : Reg) (b : Byte) :
    (s.writeReg x b).reg r = if r = x then b else s.reg r := by
  simp only [State.reg, State.writeReg, Vector.getElem_set, Fin.ext_iff]
  split <;> split <;> simp_all

@[simp] theorem State.reg_writeFlag (s : State) (r : Reg) (b : Byte) :
    (s.writeFlag b).reg r = if r = flagReg then b else s.reg r := by simp [State.writeFlag]

/-- An effective address is the exact sum (R164). -/
theorem State.effAddr_eq (s : State) (k : Nat) : s.effAddr k = s.index.toNat + k := rfl

/-- A register reads by the vector of registers alone. -/
theorem State.reg_congr (s t : State) (h : t.v = s.v) (r : Reg) : t.reg r = s.reg r := by simp [State.reg, h]

/-- Registers that read alike are equal vectors. -/
theorem State.v_ext (s t : State) (h : ∀ r : Reg, t.reg r = s.reg r) : t.v = s.v :=
  Vector.ext fun i hi => h ⟨i, hi⟩

end Sys2Proof.Machine
end

