-- ==== Sys2Proof/Laws/Memory.lean ====
section
/-! SUPPORT. The laws of memory: a write is read back, leaves every other address alone, and keeps the canonical form. -/

namespace Sys2Proof.Machine

@[simp] theorem Memory.byteAt_nil (a : Nat) : Memory.byteAt [] a = Memory.resetByte a := rfl

theorem Memory.byteAt_cons (k : Nat) (c : Byte) (m : Memory) (a : Nat) :
    Memory.byteAt ((k, c) :: m) a = if a = k then c else Memory.byteAt m a := rfl

theorem Memory.wfFrom_cons (lo k : Nat) (c : Byte) (m : Memory) :
    Memory.wfFrom lo ((k, c) :: m) = true ↔
      lo ≤ k ∧ k < 4096 ∧ c ≠ Memory.resetByte k ∧ Memory.wfFrom (k + 1) m = true := by
  simp [Memory.wfFrom, and_assoc]

/-- The canonical form from an address on holds from any lower address on. -/
theorem Memory.wfFrom_mono {lo lo' : Nat} {m : Memory} (h : Memory.wfFrom lo m = true) (hl : lo' ≤ lo) :
    Memory.wfFrom lo' m = true := by
  cases m with
  | nil => rfl
  | cons e m =>
    obtain ⟨k, c⟩ := e
    rw [Memory.wfFrom_cons] at h ⊢
    exact ⟨by omega, h.2⟩

/-- Below its first listed address, a canonical memory reads as the reset contents. -/
theorem Memory.byteAt_below {lo a : Nat} {m : Memory} (h : Memory.wfFrom lo m = true) (ha : a < lo) :
    Memory.byteAt m a = Memory.resetByte a := by
  induction m generalizing lo with
  | nil => rfl
  | cons e m ih =>
    obtain ⟨k, c⟩ := e
    rw [Memory.wfFrom_cons] at h
    rw [Memory.byteAt_cons, if_neg (by omega), ih h.2.2.2 (by omega)]

theorem Memory.byteAt_consCell_other {a a' : Nat} (b : Byte) (m : Memory) (h : a' ≠ a) :
    Memory.byteAt (Memory.consCell a b m) a' = Memory.byteAt m a' := by
  unfold Memory.consCell
  split
  · rfl
  · rw [Memory.byteAt_cons, if_neg h]

theorem Memory.byteAt_consCell_same {a : Nat} (b : Byte) {m : Memory} (h : Memory.byteAt m a = Memory.resetByte a) :
    Memory.byteAt (Memory.consCell a b m) a = b := by
  unfold Memory.consCell
  split
  · simp_all
  · simp [Memory.byteAt_cons]

/-- A write leaves every other address alone. -/
theorem Memory.byteAt_write_other {a a' : Nat} (b : Byte) (m : Memory) (h : a' ≠ a) :
    Memory.byteAt (Memory.write m a b) a' = Memory.byteAt m a' := by
  induction m with
  | nil => exact Memory.byteAt_consCell_other b [] h
  | cons e m ih =>
    obtain ⟨k, c⟩ := e
    simp only [Memory.write]
    split
    · exact Memory.byteAt_consCell_other b _ h
    · split
      · subst_vars
        rw [Memory.byteAt_consCell_other b m h, Memory.byteAt_cons, if_neg h]
      · rw [Memory.byteAt_cons, Memory.byteAt_cons, ih]

theorem Memory.byteAt_write_same_from {lo a : Nat} (b : Byte) {m : Memory} (hm : Memory.wfFrom lo m = true) :
    Memory.byteAt (Memory.write m a b) a = b := by
  induction m generalizing lo with
  | nil => exact Memory.byteAt_consCell_same b rfl
  | cons e m ih =>
    obtain ⟨k, c⟩ := e
    have h := (Memory.wfFrom_cons ..).1 hm
    simp only [Memory.write]
    split
    · refine Memory.byteAt_consCell_same b ?_
      rw [Memory.byteAt_cons, if_neg (by omega), Memory.byteAt_below h.2.2.2 (by omega)]
    · split
      · exact Memory.byteAt_consCell_same b (Memory.byteAt_below h.2.2.2 (by omega))
      · rw [Memory.byteAt_cons, if_neg (by omega), ih h.2.2.2]

/-- A write is read back. -/
theorem Memory.byteAt_write_same {a : Nat} (b : Byte) {m : Memory} (hm : m.wf = true) :
    Memory.byteAt (Memory.write m a b) a = b := Memory.byteAt_write_same_from b hm

theorem Memory.byteAt_write {m : Memory} (hm : m.wf = true) (a a' : Nat) (b : Byte) :
    Memory.byteAt (Memory.write m a b) a' = if a' = a then b else Memory.byteAt m a' := by
  split
  · subst_vars; exact Memory.byteAt_write_same b hm
  · exact Memory.byteAt_write_other b m ‹_›

theorem Memory.wfFrom_consCell {lo a : Nat} (b : Byte) {m : Memory} (hm : Memory.wfFrom (a + 1) m = true)
    (hl : lo ≤ a) (ha : a < 4096) : Memory.wfFrom lo (Memory.consCell a b m) = true := by
  unfold Memory.consCell
  split
  · exact Memory.wfFrom_mono hm (by omega)
  · exact (Memory.wfFrom_cons ..).2 ⟨hl, ha, ‹_›, hm⟩

theorem Memory.wfFrom_write {lo a : Nat} (b : Byte) {m : Memory} (hm : Memory.wfFrom lo m = true) (hl : lo ≤ a)
    (ha : a < 4096) : Memory.wfFrom lo (Memory.write m a b) = true := by
  induction m generalizing lo with
  | nil => exact Memory.wfFrom_consCell b rfl hl ha
  | cons e m ih =>
    obtain ⟨k, c⟩ := e
    have h := (Memory.wfFrom_cons ..).1 hm
    simp only [Memory.write]
    split
    · exact Memory.wfFrom_consCell b ((Memory.wfFrom_cons ..).2 ⟨by omega, h.2⟩) hl ha
    · split
      · subst_vars; exact Memory.wfFrom_consCell b h.2.2.2 hl ha
      · exact (Memory.wfFrom_cons ..).2 ⟨h.1, h.2.1, h.2.2.1, ih h.2.2.2 (by omega)⟩

/-- A write to an address of memory keeps the canonical form. -/
theorem Memory.wf_write {a : Nat} (b : Byte) {m : Memory} (hm : m.wf = true) (ha : a < 4096) :
    (Memory.write m a b).wf = true := Memory.wfFrom_write b hm (Nat.zero_le a) ha

/-- Writing consecutive bytes inside memory keeps the canonical form. -/
theorem Memory.wf_writeBytes {m : Memory} (bs : List Byte) {a : Nat} (hm : m.wf = true) (ha : a + bs.length ≤ 4096) :
    (Memory.writeBytes m a bs).wf = true := by
  induction bs generalizing m a with
  | nil => exact hm
  | cons b bs ih =>
    rw [List.length_cons] at ha
    exact ih (Memory.wf_write b hm (by omega)) (by omega)

/-- What consecutive writes leave at each address. -/
theorem Memory.byteAt_writeBytes {m : Memory} (bs : List Byte) {a : Nat} (hm : m.wf = true) (ha : a + bs.length ≤ 4096)
    (p : Nat) : Memory.byteAt (Memory.writeBytes m a bs) p =
      if a ≤ p ∧ p < a + bs.length then (bs[p - a]?).getD 0 else Memory.byteAt m p := by
  induction bs generalizing m a with
  | nil => simp [Memory.writeBytes]
  | cons b bs ih =>
    rw [List.length_cons] at ha ⊢
    rw [Memory.writeBytes, ih (Memory.wf_write b hm (by omega)) (by omega), Memory.byteAt_write hm]
    by_cases hp : p = a
    · subst hp; simp
    · rw [if_neg hp]
      by_cases h : a + 1 ≤ p ∧ p < a + 1 + bs.length
      · rw [if_pos h, if_pos (by omega), show p - a = (p - (a + 1)) + 1 by omega]; simp
      · rw [if_neg h, if_neg (by omega)]

theorem State.memWrite_mem {s : State} {a : Nat} (b : Byte) (ha : a < 4096) :
    (s.memWrite a b).mem = s.mem.write a b := by simp [State.memWrite, ha]

/-- A memory write of a handler keeps the canonical form, whatever its address. -/
theorem State.wf_memWrite {s : State} (a : Nat) (b : Byte) (hm : s.mem.wf = true) : (s.memWrite a b).mem.wf = true := by
  unfold State.memWrite
  split
  · exact Memory.wf_write b hm ‹_›
  · exact hm

theorem State.byteAt_memWrite {s : State} (hm : s.mem.wf = true) {a : Nat} (b : Byte) (ha : a < 4096) (p : Nat) :
    (s.memWrite a b).mem.byteAt p = if p = a then b else s.mem.byteAt p := by
  rw [State.memWrite_mem b ha, Memory.byteAt_write hm]

/-- bcd-store's writes keep the canonical form. -/
theorem State.wf_storeBcd {s : State} (b : Byte) (hm : s.mem.wf = true) : (s.storeBcd b).mem.wf = true :=
  State.wf_memWrite _ _ (State.wf_memWrite _ _ (State.wf_memWrite _ _ hm))

/-- Everything bcd-store's three writes do to memory. -/
theorem State.byteAt_storeBcd {s : State} (hm : s.mem.wf = true) (b : Byte) (h : s.effAddr 2 < 4096) (p : Nat) :
    (s.storeBcd b).mem.byteAt p =
      if p = s.effAddr 0 then b / 100 else if p = s.effAddr 1 then b / 10 % 10
      else if p = s.effAddr 2 then b % 10 else s.mem.byteAt p := by
  simp only [State.effAddr] at h ⊢
  have h1 := State.wf_memWrite (s.effAddr 0) (b / 100) hm
  have h2 := State.wf_memWrite (s.effAddr 1) (b / 10 % 10) h1
  simp only [State.effAddr] at h1 h2
  simp only [State.storeBcd, State.effAddr]
  rw [State.byteAt_memWrite h2 _ h, State.byteAt_memWrite h1 _ (by omega), State.byteAt_memWrite hm _ (by omega)]
  by_cases h0 : p = s.index.toNat + 0
  · rw [if_neg (by omega), if_neg (by omega), if_pos h0, if_pos h0]
  · by_cases h1 : p = s.index.toNat + 1
    · rw [if_neg (by omega), if_pos h1, if_neg h0, if_pos h1]
    · rw [if_neg h1, if_neg h0, if_neg h0, if_neg h1]

/-- The placed word keeps the canonical form. -/
theorem State.wf_placeWord {s : State} (w : Word) (hm : s.mem.wf = true) : (s.placeWord w).mem.wf = true :=
  State.wf_memWrite _ _ (State.wf_memWrite _ _ hm)

end Sys2Proof.Machine
end

