-- ==== Sys2Proof/Laws/Ops.lean ====
section
/-! SUPPORT. One lemma per shared operation that says everything it can do: the PC check with commit, the stack, the
block load, the framebuffer engine, sampling and finishing a cycle. -/

namespace Sys2Proof.Machine

/-! ### The PC check and commit -/

theorem badPc_eq_false {n : Nat} : badPc n = false ↔ GoodPc n := by
  simp [badPc]

theorem badPc_eq_true {n : Nat} : badPc n = true ↔ ¬GoodPc n := by
  rw [← badPc_eq_false]; simp

theorem State.raise_eq (s : State) (kind : AccessKind) (value : Nat) :
    s.raise kind value = .next (s.setFault (s.errorRecord kind value)) := rfl

theorem State.commit_good {s t : State} {n : Nat} (h : GoodPc n) :
    s.commit t n = .next (t.setPc n) := by
  rw [State.commit, badPc_eq_false.2 h]; rfl

theorem State.commit_bad {s t : State} {n : Nat} (h : ¬GoodPc n) : s.commit t n = s.raise .programCounter n := by
  rw [State.commit, badPc_eq_true.2 h]; rfl

/-- Everything the PC check and commit can answer. -/
theorem State.commit_cases {s t u : State} {n : Nat} (h : s.commit t n = .next u) :
    (GoodPc n ∧ u = t.setPc n) ∨
    (¬GoodPc n ∧ u = s.setFault (s.errorRecord .programCounter n)) := by
  by_cases hn : GoodPc n
  · rw [State.commit_good hn] at h
    exact .inl ⟨hn, (Host.Outcome.next.inj h).symm⟩
  · rw [State.commit_bad hn, State.raise_eq] at h
    exact .inr ⟨hn, (Host.Outcome.next.inj h).symm⟩

theorem toNat_ofNat_of_good {n : Nat} (h : GoodPc n) : (BitVec.ofNat 16 n).toNat = n := by
  rw [BitVec.toNat_ofNat]; omega

/-! ### The call stack -/

theorem State.push_full {s : State} (a : Word) (h : s.sp.val = 16) : s.push a = none := by
  simp [State.push, h]

theorem State.push_room {s : State} (a : Word) (h : s.sp.val < 16) :
    s.push a = some { s with stack := s.stack.set s.sp.val a, sp := ⟨s.sp.val + 1, by omega⟩ } := by
  simp [State.push, h]

theorem State.pop_empty {s : State} (h : s.sp.val = 0) : s.pop = none := by simp [State.pop, h]

theorem State.pop_some {s : State} (h : 0 < s.sp.val) :
    s.pop = some (s.stack[s.sp.val - 1]'(by omega), { s with sp := ⟨s.sp.val - 1, by omega⟩ }) := by
  simp [State.pop, h]

/-- Everything a push can answer. -/
theorem State.push_cases {s : State} {a : Word} :
    (s.sp.val = 16 ∧ s.push a = none) ∨
    (∃ h : s.sp.val < 16,
      s.push a = some { s with stack := s.stack.set s.sp.val a, sp := ⟨s.sp.val + 1, by omega⟩ }) := by
  have := s.sp.isLt
  by_cases h : s.sp.val < 16
  · exact .inr ⟨h, State.push_room a h⟩
  · exact .inl ⟨by omega, State.push_full a (by omega)⟩

/-- Everything a pop can answer. -/
theorem State.pop_cases {s : State} :
    (s.sp.val = 0 ∧ s.pop = none) ∨
    (∃ h : 0 < s.sp.val,
      s.pop = some (s.stack[s.sp.val - 1]'(by omega), { s with sp := ⟨s.sp.val - 1, by omega⟩ })) := by
  by_cases h : 0 < s.sp.val
  · exact .inr ⟨h, State.pop_some h⟩
  · exact .inl ⟨by omega, State.pop_empty (by omega)⟩

/-- The address a return pops is the top of the stack. -/
theorem State.topOfStack_eq {s : State} (h : 0 < s.sp.val) :
    s.topOfStack = (s.stack[s.sp.val - 1]'(by omega)).toNat := by
  have : s.sp.val - 1 < 16 := by omega
  simp [State.topOfStack, this]

/-! ### Operands -/

/-- The block load's registers (R163). -/
theorem State.reg_loadRegs (s : State) {n : Nat} (hn : n ≤ 16) (r : Reg) :
    (s.loadRegs n).reg r = if r.val < n then s.byteAtIndex r.val else s.reg r := by
  induction n with
  | zero => rfl
  | succ k ih =>
    rw [State.loadRegs, State.reg_writeReg, ih (by omega)]
    have hk : (Fin.ofNat 16 k).val = k := Nat.mod_eq_of_lt (by omega)
    by_cases h : r.val = k
    · rw [if_pos (Fin.ext (h.trans hk.symm)), if_pos (by omega), h]
    · rw [if_neg (fun e => h (by rw [e]; exact hk))]
      by_cases h' : r.val < k
      · rw [if_pos h', if_pos (by omega)]
      · rw [if_neg h', if_neg (by omega)]

/-- A key number up to 15 names a key. -/
theorem State.keyOf_eq {s : State} {x : Reg} (h : (s.reg x).toNat ≤ 15) :
    s.keyOf x = some (s.pressed (s.reg x).toNat) := by
  have : (s.reg x).toNat < 16 := by omega
  simp [State.keyOf, State.pressed, this]

theorem State.keyOf_none {s : State} {x : Reg} (h : 15 < (s.reg x).toNat) : s.keyOf x = none := by
  have : ¬(s.reg x).toNat < 16 := by omega
  simp [State.keyOf, this]

/-! ### The framebuffer engine -/

theorem Framebuffer.lit_flip (fb : Framebuffer) (p q : Pixel) :
    (fb.flip p).lit q = if q = p then !fb.lit q else fb.lit q := by
  obtain ⟨r, c⟩ := p
  obtain ⟨r', c'⟩ := q
  simp only [Framebuffer.lit, Framebuffer.flip, Vector.getElem_set, Prod.mk.injEq, Fin.ext_iff]
  by_cases hr : r.val = r'.val <;> by_cases hc : c.val = c'.val <;> simp [hr, hc, eq_comm]

@[simp] theorem Framebuffer.lit_blank (p : Pixel) : Framebuffer.blank.lit p = false := by
  simp [Framebuffer.blank, Framebuffer.lit]

/-- Images with the same pixels are the same image. -/
theorem Framebuffer.ext_lit {a b : Framebuffer} (h : ∀ p, a.lit p = b.lit p) : a = b :=
  Vector.ext fun r hr => Vector.ext fun c hc => h (⟨r, hr⟩, ⟨c, hc⟩)

/-- Compositing bits with distinct targets inverts exactly the targets. -/
theorem lit_foldl_compositeBit {l : List Pixel} (hl : l.Nodup) (fb : Framebuffer) (hit : Bool) (p : Pixel) :
    (l.foldl compositeBit (fb, hit)).1.lit p = (fb.lit p ^^ decide (p ∈ l)) := by
  induction l generalizing fb hit with
  | nil => simp
  | cons q l ih =>
    rw [List.nodup_cons] at hl
    rw [List.foldl_cons, compositeBit, ih hl.2, Framebuffer.lit_flip]
    by_cases hq : p = q
    · subst hq; simp [hl.1]
    · simp [hq]

/-- Compositing bits with distinct targets collides exactly when a target was lit. -/
theorem hit_foldl_compositeBit {l : List Pixel} (hl : l.Nodup) (fb : Framebuffer) (hit : Bool) :
    (l.foldl compositeBit (fb, hit)).2 = (hit || l.any fb.lit) := by
  induction l generalizing fb hit with
  | nil => simp
  | cons q l ih =>
    rw [List.nodup_cons] at hl
    rw [List.foldl_cons, compositeBit, ih hl.2, List.any_cons, Bool.or_assoc]
    have : l.any (fb.flip q).lit = l.any fb.lit := by
      rw [Bool.eq_iff_iff, List.any_eq_true, List.any_eq_true]
      refine exists_congr fun p => and_congr_right fun hp => ?_
      rw [Framebuffer.lit_flip, if_neg (fun e : p = q => hl.1 (e ▸ hp))]
    rw [this]

theorem mem_rowTargets {ox oy dy : Nat} {b : Byte} {p : Pixel} :
    p ∈ rowTargets ox oy dy b ↔
      ∃ dx, dx < 8 ∧ b.getLsbD (7 - dx) = true ∧ p.1.val = (oy + dy) % 32 ∧ p.2.val = (ox + dx) % 64 := by
  obtain ⟨r, c⟩ := p
  simp only [rowTargets, List.mem_map, List.mem_filter, List.mem_range, Prod.ext_iff, Fin.ext_iff, Fin.val_ofNat,
    and_assoc]
  exact exists_congr fun dx => and_congr_right fun _ => and_congr_right fun _ =>
    and_congr ⟨Eq.symm, Eq.symm⟩ ⟨Eq.symm, Eq.symm⟩

/-- A sprite's targets are the wrapped places of its set bits (R180 to R182). -/
theorem mem_spriteTargets {ox oy dy : Nat} {rows : List Byte} {p : Pixel} :
    p ∈ spriteTargets ox oy dy rows ↔
      ∃ k dx, ∃ h : k < rows.length, dx < 8 ∧ (rows[k]).getLsbD (7 - dx) = true ∧
        p.1.val = (oy + (dy + k)) % 32 ∧ p.2.val = (ox + dx) % 64 := by
  induction rows generalizing dy with
  | nil => simp [spriteTargets]
  | cons b rest ih =>
    rw [spriteTargets, List.mem_append, mem_rowTargets, ih]
    constructor
    · rintro (⟨dx, h8, hb, hr, hc⟩ | ⟨k, dx, hk, h8, hb, hr, hc⟩)
      · exact ⟨0, dx, by simp, h8, hb, hr, hc⟩
      · exact ⟨k + 1, dx, by simpa using hk, h8, by simpa using hb, by rw [hr]; congr 1; omega, hc⟩
    · rintro ⟨k, dx, hk, h8, hb, hr, hc⟩
      cases k with
      | zero => exact .inl ⟨dx, h8, hb, hr, hc⟩
      | succ k =>
        exact .inr ⟨k, dx, by simpa using hk, h8, by simpa using hb, by rw [hr]; congr 1; omega, hc⟩

@[simp] theorem State.spriteRows_length (s : State) (n : Nat) : (s.spriteRows n).length = n := by
  simp [State.spriteRows]

@[simp] theorem State.spriteRows_getElem (s : State) (n k : Nat) (h : k < (s.spriteRows n).length) :
    (s.spriteRows n)[k] = s.mem.byteAt (s.index.toNat + k) := by
  simp [State.spriteRows, State.byteAtIndex]

/-- The targets of a draw's sprite are the pixels it lights. -/
theorem State.mem_spriteTargets {s : State} {ox oy n : Nat} {p : Pixel} :
    p ∈ spriteTargets ox oy 0 (s.spriteRows n) ↔ s.SpriteLights ox oy n p := by
  rw [Sys2Proof.Machine.mem_spriteTargets, State.SpriteLights]
  simp only [State.spriteRows_length, State.spriteRows_getElem, Nat.zero_add]
  constructor
  · rintro ⟨k, dx, hk, h8, hb, hr, hc⟩; exact ⟨k, dx, hk, h8, hr, hc, hb⟩
  · rintro ⟨k, dx, hk, h8, hr, hc, hb⟩; exact ⟨k, dx, hk, h8, hb, hr, hc⟩

/-! ### The stages around Execute -/

theorem tick_toNat (t : Byte) : (tick t).toNat = t.toNat - 1 := by
  unfold tick
  split
  · subst_vars; rfl
  · have : t.toNat ≠ 0 := fun h => ‹¬t = 0› (BitVec.eq_of_toNat_eq h)
    have := t.isLt
    rw [BitVec.toNat_sub]
    simp
    omega

/-- Everything sampling the inputs can do. -/
theorem State.sampleInputs_cases (s : State) :
    (∃ input rest, s.inputs = input :: rest ∧
      s.sampleInputs = { s with keys := input.keys, rand := input.rand, inputs := rest }) ∨
    (s.inputs = [] ∧
      s.sampleInputs = { s with rand := Config.freeRand s.freeCount, freeCount := s.freeCount + 1 }) := by
  unfold State.sampleInputs
  split
  · exact .inr ⟨‹_›, rfl⟩
  · exact .inl ⟨_, _, ‹_›, rfl⟩

@[simp] theorem State.sampleInputs_fetchWord (s : State) : s.sampleInputs.fetchWord = s.fetchWord := by
  simp [State.fetchWord, State.memRead]

@[simp] theorem State.sampleInputs_currentWord (s : State) : s.sampleInputs.currentWord = s.currentWord := by
  simp [State.currentWord]

theorem State.finishCycle_of_fault {s : State} (h : s.fault ≠ none) : s.finishCycle = s := by
  unfold State.finishCycle
  split
  · rfl
  · exact absurd ‹_› h

theorem State.finishCycle_of_running {s : State} (h : s.fault = none) :
    s.finishCycle = s.tickTimers.presentIfDirty := by
  simp [State.finishCycle, h]

/-- A fetch inside memory gives the word at PC, big-endian (R53, R102). -/
theorem State.fetchWord_eq {s : State} (h : s.pc.toNat ≤ 4094) :
    s.fetchWord = some (s.mem.byteAt s.pc.toNat ++ s.mem.byteAt (s.pc.toNat + 1)) := by
  simp only [State.fetchWord, State.memRead]
  rw [if_pos (by simp; omega), if_pos (by simp; omega)]

/-- A fetch answers a word only inside memory. -/
theorem State.fetchWord_isSome {s : State} {w : Word} (h : s.fetchWord = some w) : s.pc.toNat ≤ 4094 := by
  by_contra hc
  have : s.memRead (s.pc.toNat + 1) = none := by simp [State.memRead]; omega
  simp only [State.fetchWord, this] at h
  split at h <;> simp_all

theorem State.currentWord_eq {s : State} {w : Word} (h : s.fetchWord = some w) : s.currentWord = w := by
  simp [State.currentWord, h]

end Sys2Proof.Machine
end

