-- ==== Sys2Proof/Laws/Exec.lean ====
section
/-! SUPPORT. What Execute can answer, said once for all instructions: the handler's own check raises, or the PC check
decides between the handler's writes and an abort. -/

namespace Sys2Proof.Machine

/-- The state a handler hands the driver when its own check passes: what the instruction writes but PC. -/
def effect (s : State) : Instr → State
  | .clearScreen => s.clearFb
  | .ret => (s.pop.map Prod.snd).getD s
  | .jump _ => s
  | .call _ => (s.push (BitVec.ofNat 16 s.pcNext)).getD s
  | .skipEqImm _ _ => s
  | .skipNeImm _ _ => s
  | .loadImm x kk => s.writeReg x kk
  | .addImm x kk => s.writeReg x (s.reg x + kk)
  | .copy x y => s.writeReg x (s.reg y)
  | .and x y => s.writeReg x (s.reg x &&& s.reg y)
  | .addCarry x y => s.addCarry x y
  | .subFlag x y => (s.subFlagFirst x y).subSecond x y
  | .loadIndex nnn => s.setIndex (nnn.setWidth 16)
  | .randomAnd x kk => s.writeReg x (s.rand &&& kk)
  | .draw x y n => s.drawSprite (s.reg x).toNat (s.reg y).toNat (s.spriteRows n.val)
  | .skipKeyPressed _ => s
  | .skipKeyNotPressed _ => s
  | .getDelay x => s.writeReg x s.dt
  | .setDelay x => s.setDelay (s.reg x)
  | .setSound x => s.setSound (s.reg x)
  | .fontAddress x => s.setIndex (BitVec.ofNat 16 ((s.reg x).toNat * 5))
  | .bcdStore x => s.storeBcd (s.reg x)
  | .regLoad x => s.loadRegs (x.val + 1)

/-- What a handler answers, from its own check, its writes and its next PC. -/
def answer (s : State) (i : Instr) : Result :=
  match s.handlerError i with
  | some (kind, value) => s.raise kind value
  | none => s.commit (effect s i) (s.nextPc i)

theorem answer_none {s : State} {i : Instr} (h : s.handlerError i = none) :
    answer s i = s.commit (effect s i) (s.nextPc i) := by rw [answer, h]

theorem answer_some {s : State} {i : Instr} {kind : AccessKind} {value : Nat}
    (h : s.handlerError i = some (kind, value)) : answer s i = s.raise kind value := by rw [answer, h]

theorem pcSkip_ite (s : State) (b : Bool) : s.pcSkip b = if b then s.pc.toNat + 4 else s.pc.toNat + 2 := rfl

theorem execRet_answer (s : State) : execRet s = answer s .ret := by
  rcases s.pop_cases with ⟨h, hp⟩ | ⟨h, hp⟩
  · rw [answer_some (kind := .stackUnderflow) (value := 0) (by simp [State.handlerError, h]), execRet, hp]
    show s.raise _ s.sp.val = _
    rw [h]
  · rw [answer_none (by simp [State.handlerError]; omega), execRet, hp]
    simp [effect, hp, State.nextPc, State.topOfStack_eq h]

theorem execCall_answer (nnn : Addr) (s : State) : execCall nnn s = answer s (.call nnn) := by
  rcases s.push_cases (a := BitVec.ofNat 16 s.pcNext) with ⟨h, hp⟩ | ⟨h, hp⟩
  · rw [answer_some (kind := .stackOverflow) (value := 16) (by simp [State.handlerError, h]), execCall, hp]
    show s.raise _ s.sp.val = _
    rw [h]
  · rw [answer_none (by simp [State.handlerError]; omega), execCall, hp]
    simp [effect, hp, State.nextPc]

theorem skipOnKey_answer {s : State} {x : Reg} {wanted : Bool} {i : Instr}
    (he : s.handlerError i = if 15 < (s.reg x).toNat then some (.keyIndex, (s.reg x).toNat) else none)
    (hn : s.nextPc i = s.pcSkip (s.pressed (s.reg x).toNat == wanted)) (hf : effect s i = s) :
    skipOnKey x wanted s = answer s i := by
  unfold skipOnKey
  by_cases h : 15 < (s.reg x).toNat
  · rw [State.keyOf_none h, answer_some (by rw [he, if_pos h])]
  · rw [State.keyOf_eq (by omega), answer_none (by rw [he, if_neg h]), hn, hf]

theorem execBcdStore_answer (x : Reg) (s : State) : execBcdStore x s = answer s (.bcdStore x) := by
  unfold execBcdStore
  by_cases h : s.index.toNat + 2 < 4096
  · rw [if_pos h, answer_none (by simp [State.handlerError]; omega)]; rfl
  · rw [if_neg h, answer_some (by simp only [State.handlerError]; rw [if_pos (by omega)])]

theorem execRegLoad_answer (x : Reg) (s : State) : execRegLoad x s = answer s (.regLoad x) := by
  unfold execRegLoad
  by_cases h : s.index.toNat + x.val < 4096
  · rw [if_pos h, answer_none (by simp [State.handlerError]; omega)]; rfl
  · rw [if_neg h, answer_some (by simp only [State.handlerError]; rw [if_pos (by omega)])]

theorem execDraw_answer (x y : Reg) (n : Fin 16) (s : State) : execDraw x y n s = answer s (.draw x y n) := by
  unfold execDraw
  by_cases h : 0 < n.val ∧ 4095 < s.index.toNat + n.val - 1
  · have e : s.index.toNat + (n.val - 1) = s.index.toNat + n.val - 1 := by omega
    rw [State.effAddr_eq, e, if_pos (by simp; omega),
      answer_some (by simp only [State.handlerError]; rw [if_pos h])]
  · rw [State.effAddr_eq, if_neg (by simp; omega), answer_none (by simp only [State.handlerError]; rw [if_neg h])]; rfl

/-- Execute, for every instruction: the handler's own check, then its writes under the PC check (R104 to R107, R224). -/
theorem exec_eq_answer (i : Instr) (s : State) : exec i s = answer s i := by
  cases i with
  | ret => exact execRet_answer s
  | call nnn => exact execCall_answer nnn s
  | skipEqImm x kk =>
    rw [answer_none rfl]
    simp [exec, execSkipEqImm, effect, State.nextPc, State.pcSkip]
  | skipNeImm x kk =>
    rw [answer_none rfl]
    by_cases h : s.reg x = kk <;> simp [exec, execSkipNeImm, effect, State.nextPc, State.pcSkip, h]
  | skipKeyPressed x =>
    exact skipOnKey_answer rfl (by simp [State.nextPc, State.pcSkip]) rfl
  | skipKeyNotPressed x =>
    refine skipOnKey_answer rfl ?_ rfl
    cases h : s.pressed (s.reg x).toNat <;> simp [State.nextPc, State.pcSkip, h]
  | bcdStore x => exact execBcdStore_answer x s
  | regLoad x => exact execRegLoad_answer x s
  | draw x y n => exact execDraw_answer x y n s
  | clearScreen => rfl
  | jump nnn => rfl
  | loadImm x kk => rfl
  | addImm x kk => rfl
  | copy x y => rfl
  | and x y => rfl
  | addCarry x y => rfl
  | subFlag x y => rfl
  | loadIndex nnn => rfl
  | randomAnd x kk => rfl
  | getDelay x => rfl
  | setDelay x => rfl
  | setSound x => rfl
  | fontAddress x => rfl

/-- Everything Execute can do: an abort that only records the first error, or the handler's writes with the next PC. -/
theorem exec_cases {i : Instr} {s t : State} (h : exec i s = .next t) :
    (∃ kind value, s.firstError i = some (kind, value) ∧ t = s.setFault (s.errorRecord kind value)) ∨
    (s.handlerError i = none ∧ GoodPc (s.nextPc i) ∧
      t = (effect s i).setPc (s.nextPc i)) := by
  rw [exec_eq_answer, answer] at h
  split at h
  · rename_i he
    rw [State.raise_eq] at h
    exact .inl ⟨_, _, by rw [State.firstError, he], (Host.Outcome.next.inj h).symm⟩
  · rename_i he
    rcases State.commit_cases h with ⟨hg, rfl⟩ | ⟨hg, rfl⟩
    · exact .inr ⟨he, hg, rfl⟩
    · exact .inl ⟨_, _, by rw [State.firstError, he]; exact if_neg hg, rfl⟩

/-- An instruction whose handler's check passes fails the PC check exactly on an illegal next PC. -/
theorem State.firstError_of_handler {s : State} {i : Instr} (he : s.handlerError i = none) (hg : ¬GoodPc (s.nextPc i)) :
    s.firstError i = some (.programCounter, s.nextPc i) := by rw [State.firstError, he]; exact if_neg hg

/-- No handler's own check records a PC error. -/
theorem State.handlerError_ne_programCounter (s : State) (i : Instr) (value : Nat) :
    s.handlerError i ≠ some (.programCounter, value) := by
  cases i <;> simp [State.handlerError]

/-- An instruction with a first error records it and changes nothing else. -/
theorem exec_of_firstError {s : State} {i : Instr} {kind : AccessKind} {value : Nat}
    (h : s.firstError i = some (kind, value)) : exec i s = .next (s.setFault (s.errorRecord kind value)) := by
  rw [State.firstError] at h
  split at h
  · rename_i he
    rw [exec_eq_answer, answer_some (he.trans h), State.raise_eq]
  · rename_i he
    split at h
    · cases h
    · rename_i hg
      cases h
      rw [exec_eq_answer, answer_none he, State.commit_bad hg, State.raise_eq]

/-- Execute always answers a next state. -/
theorem exec_answers_next (i : Instr) (s : State) : ∃ t, exec i s = .next t := by
  rw [exec_eq_answer, answer]
  split
  · exact ⟨_, rfl⟩
  · by_cases h : GoodPc (s.nextPc i)
    · exact ⟨_, State.commit_good h⟩
    · exact ⟨_, by rw [State.commit_bad h, State.raise_eq]⟩

end Sys2Proof.Machine
end

