-- ==== Sys2Proof/Laws/Cycle.lean ====
section
/-! SUPPORT. What one step can do, said once: nothing on a halted core; a stop only where the fetch leaves memory; else an
aborted cycle, or a committed one. -/

namespace Sys2Proof.Machine

/-- Offering inputs does not change what is fetched. -/
@[simp] theorem State.fetchWord_offer (s : State) (keys : Keypad) (rand : Byte) :
    (s.offer keys rand).fetchWord = s.fetchWord := rfl

/-- The opcode table's word of 16 bits is the number as a word. -/
theorem tableWord_16 (w : Nat) : tableWord 16 w = BitVec.ofNat 16 w := by
  apply BitVec.eq_of_toNat_eq
  simp [tableWord]

theorem step_halted {s : State} (h : s.fault ≠ none) : step s = .next s := by
  unfold step driveCycle
  split
  · rfl
  · exact absurd ‹_› h

theorem step_fetched {s : State} {w : Word} (h : s.fault = none) (hw : s.fetchWord = some w) :
    step s = runWord w s.sampleInputs := by simp [step, driveCycle, h, hw]

theorem runWord_decoded {w : Word} {i : Instr} (h : decode w = some i) (s : State) :
    runWord w s = finishResult (exec i s) := by rw [runWord, h]

/-- Everything a step of a running core can answer. -/
theorem step_cases {s t : State} (h0 : s.fault = none) (h : step s = .next t) :
    ∃ w, s.fetchWord = some w ∧
      ((decode w = none ∧ t = s.sampleInputs.setFault (.unknownOpcode w s.pc)) ∨
       (∃ i kind value, decode w = some i ∧ s.sampleInputs.firstError i = some (kind, value) ∧
          t = s.sampleInputs.setFault (.outOfBoundsAccess kind value w s.pc)) ∨
       (∃ i, decode w = some i ∧ s.sampleInputs.handlerError i = none ∧ GoodPc (s.sampleInputs.nextPc i) ∧
          t = ((effect s.sampleInputs i).setPc (s.sampleInputs.nextPc i)).finishCycle)) := by
  cases hw : s.fetchWord with
  | none => simp [step, driveCycle, h0, hw] at h
  | some w =>
    refine ⟨w, rfl, ?_⟩
    rw [step_fetched h0 hw] at h
    cases hd : decode w with
    | none =>
      rw [runWord, hd] at h
      left
      refine ⟨rfl, ?_⟩
      rw [← Host.Outcome.next.inj h]
      rw [State.sampleInputs_pc]
    | some i =>
      right
      rw [runWord_decoded hd] at h
      obtain ⟨u, hu⟩ := exec_answers_next i s.sampleInputs
      rw [hu] at h
      obtain rfl := Host.Outcome.next.inj h
      rcases exec_cases hu with ⟨kind, value, hf, rfl⟩ | ⟨he, hg, rfl⟩
      · left
        refine ⟨i, kind, value, rfl, hf, ?_⟩
        rw [State.finishCycle_of_fault (by simp), State.errorRecord, State.sampleInputs_currentWord,
          State.currentWord_eq hw, State.sampleInputs_pc]
      · exact .inr ⟨i, rfl, he, hg, rfl⟩

/-- A handler's writes leave FAULT alone. -/
@[simp] theorem effect_fault (s : State) (i : Instr) : (effect s i).fault = s.fault := by
  cases i with
  | ret => rcases s.pop_cases with ⟨_, hp⟩ | ⟨_, hp⟩ <;> simp [effect, hp]
  | call nnn => rcases s.push_cases (a := BitVec.ofNat 16 s.pcNext) with ⟨_, hp⟩ | ⟨_, hp⟩ <;> simp [effect, hp]
  | _ => simp [effect]

/-- A committed cycle: the step of a running core that ends with no FAULT. -/
theorem step_committed {s t : State} (h0 : s.fault = none) (h : step s = .next t) (ht : t.fault = none) :
    ∃ i, s.nextInstr = some i ∧ s.sampleInputs.handlerError i = none ∧ GoodPc (s.sampleInputs.nextPc i) ∧
      t = ((effect s.sampleInputs i).setPc (s.sampleInputs.nextPc i)).tickTimers.presentIfDirty := by
  obtain ⟨w, hw, ⟨_, rfl⟩ | ⟨_, _, _, _, _, rfl⟩ | ⟨i, hd, he, hg, rfl⟩⟩ := step_cases h0 h
  · simp at ht
  · simp at ht
  · exact ⟨i, by simp [State.nextInstr, hw, hd], he, hg, State.finishCycle_of_running (by simp [h0])⟩

end Sys2Proof.Machine
end

