-- ==== Sys2Proof/Laws/PerInstr.lean ====
section
/-! SUPPORT. Statements about every instruction as syntax, one lemma per constructor. `EncodesInRow`: the encoded word lies
in the row of R76's opcode map that the instruction's kind has (30_encoding.md rules R76, R83). -/

namespace Sys2Proof

/-! ### The bits of an encoding's parts -/

theorem atX_and_F000 : ∀ x : Reg, atX x &&& 0xF000#16 = 0 := by decide

theorem atX_and_F00F : ∀ x : Reg, atX x &&& 0xF00F#16 = 0 := by decide

theorem atX_and_F0FF : ∀ x : Reg, atX x &&& 0xF0FF#16 = 0 := by decide

theorem atY_and_F000 : ∀ y : Reg, atY y &&& 0xF000#16 = 0 := by decide

theorem atY_and_F00F : ∀ y : Reg, atY y &&& 0xF00F#16 = 0 := by decide

theorem rows_and_F000 : ∀ n : Fin 16, BitVec.ofNat 16 n.val &&& 0xF000#16 = 0 := by decide

theorem kk_and_F000 (kk : Byte) : kk.setWidth 16 &&& 0xF000#16 = 0 := by
  apply BitVec.eq_of_toNat_eq
  rw [BitVec.toNat_and, BitVec.toNat_setWidth]
  apply Nat.eq_of_testBit_eq
  intro j
  have : kk.toNat < 2 ^ 8 := kk.isLt
  rw [Nat.mod_eq_of_lt (by omega), Nat.testBit_and]
  by_cases hj : j < 8
  · have : (61440).testBit j = false := by revert j; decide
    simp [this]
  · rw [Nat.testBit_lt_two_pow (lt_of_lt_of_le this (Nat.pow_le_pow_right (by omega) (by omega)))]
    simp

theorem nnn_and_F000 (nnn : Addr) : nnn.setWidth 16 &&& 0xF000#16 = 0 := by
  apply BitVec.eq_of_toNat_eq
  rw [BitVec.toNat_and, BitVec.toNat_setWidth]
  apply Nat.eq_of_testBit_eq
  intro j
  have : nnn.toNat < 2 ^ 12 := nnn.isLt
  rw [Nat.mod_eq_of_lt (by omega), Nat.testBit_and]
  by_cases hj : j < 12
  · have : (61440).testBit j = false := by revert j; decide
    simp [this]
  · rw [Nat.testBit_lt_two_pow (lt_of_lt_of_le this (Nat.pow_le_pow_right (by omega) (by omega)))]
    simp

end Sys2Proof

namespace Sys2Proof.Laws.EncodesInRow

/-- The encoded word lies in the row of the opcode map that the instruction's kind has. -/
def Statement (i : Instr) : Prop := ∃ r ∈ opcodeMap, r.kind = i.kind ∧ r.covers (encode i) = true

theorem of_row {i : Instr} (r : OpcodeRow) (hr : r ∈ opcodeMap) (hk : r.kind = i.kind)
    (h : encode i &&& r.mask = r.pattern) : Statement i := ⟨r, hr, hk, by simp [OpcodeRow.covers, h]⟩

theorem clearScreen : Statement .clearScreen := of_row ⟨.clearScreen, 0x00E0#16, 0xF0FF#16⟩ (by decide) rfl (by decide)

theorem ret : Statement .ret := of_row ⟨.ret, 0x00EE#16, 0xF0FF#16⟩ (by decide) rfl (by decide)

theorem jump (nnn : Addr) : Statement (.jump nnn) :=
  of_row ⟨.jump, 0x1000#16, 0xF000#16⟩ (by decide) rfl (by simp only [encode, BitVec.and_or_distrib_right, nnn_and_F000]; rfl)

theorem call (nnn : Addr) : Statement (.call nnn) :=
  of_row ⟨.call, 0x2000#16, 0xF000#16⟩ (by decide) rfl (by simp only [encode, BitVec.and_or_distrib_right, nnn_and_F000]; rfl)

theorem skipEqImm (x : Reg) (kk : Byte) : Statement (.skipEqImm x kk) :=
  of_row ⟨.skipEqImm, 0x3000#16, 0xF000#16⟩ (by decide) rfl (by simp only [encode, BitVec.and_or_distrib_right, atX_and_F000, kk_and_F000]; rfl)

theorem skipNeImm (x : Reg) (kk : Byte) : Statement (.skipNeImm x kk) :=
  of_row ⟨.skipNeImm, 0x4000#16, 0xF000#16⟩ (by decide) rfl (by simp only [encode, BitVec.and_or_distrib_right, atX_and_F000, kk_and_F000]; rfl)

theorem loadImm (x : Reg) (kk : Byte) : Statement (.loadImm x kk) :=
  of_row ⟨.loadImm, 0x6000#16, 0xF000#16⟩ (by decide) rfl (by simp only [encode, BitVec.and_or_distrib_right, atX_and_F000, kk_and_F000]; rfl)

theorem addImm (x : Reg) (kk : Byte) : Statement (.addImm x kk) :=
  of_row ⟨.addImm, 0x7000#16, 0xF000#16⟩ (by decide) rfl (by simp only [encode, BitVec.and_or_distrib_right, atX_and_F000, kk_and_F000]; rfl)

theorem copy (x y : Reg) : Statement (.copy x y) :=
  of_row ⟨.copy, 0x8000#16, 0xF00F#16⟩ (by decide) rfl (by simp only [encode, BitVec.and_or_distrib_right, atX_and_F00F, atY_and_F00F]; rfl)

theorem and (x y : Reg) : Statement (.and x y) :=
  of_row ⟨.and, 0x8002#16, 0xF00F#16⟩ (by decide) rfl (by simp only [encode, BitVec.and_or_distrib_right, atX_and_F00F, atY_and_F00F]; rfl)

theorem addCarry (x y : Reg) : Statement (.addCarry x y) :=
  of_row ⟨.addCarry, 0x8004#16, 0xF00F#16⟩ (by decide) rfl (by simp only [encode, BitVec.and_or_distrib_right, atX_and_F00F, atY_and_F00F]; rfl)

theorem subFlag (x y : Reg) : Statement (.subFlag x y) :=
  of_row ⟨.subFlag, 0x8005#16, 0xF00F#16⟩ (by decide) rfl (by simp only [encode, BitVec.and_or_distrib_right, atX_and_F00F, atY_and_F00F]; rfl)

theorem loadIndex (nnn : Addr) : Statement (.loadIndex nnn) :=
  of_row ⟨.loadIndex, 0xA000#16, 0xF000#16⟩ (by decide) rfl (by simp only [encode, BitVec.and_or_distrib_right, nnn_and_F000]; rfl)

theorem randomAnd (x : Reg) (kk : Byte) : Statement (.randomAnd x kk) :=
  of_row ⟨.randomAnd, 0xC000#16, 0xF000#16⟩ (by decide) rfl (by simp only [encode, BitVec.and_or_distrib_right, atX_and_F000, kk_and_F000]; rfl)

theorem draw (x y : Reg) (n : Fin 16) : Statement (.draw x y n) :=
  of_row ⟨.draw, 0xD000#16, 0xF000#16⟩ (by decide) rfl (by simp only [encode, BitVec.and_or_distrib_right, atX_and_F000, atY_and_F000, rows_and_F000]; rfl)

theorem skipKeyPressed (x : Reg) : Statement (.skipKeyPressed x) :=
  of_row ⟨.skipKeyPressed, 0xE09E#16, 0xF0FF#16⟩ (by decide) rfl (by simp only [encode, BitVec.and_or_distrib_right, atX_and_F0FF]; rfl)

theorem skipKeyNotPressed (x : Reg) : Statement (.skipKeyNotPressed x) :=
  of_row ⟨.skipKeyNotPressed, 0xE0A1#16, 0xF0FF#16⟩ (by decide) rfl (by simp only [encode, BitVec.and_or_distrib_right, atX_and_F0FF]; rfl)

theorem getDelay (x : Reg) : Statement (.getDelay x) :=
  of_row ⟨.getDelay, 0xF007#16, 0xF0FF#16⟩ (by decide) rfl (by simp only [encode, BitVec.and_or_distrib_right, atX_and_F0FF]; rfl)

theorem setDelay (x : Reg) : Statement (.setDelay x) :=
  of_row ⟨.setDelay, 0xF015#16, 0xF0FF#16⟩ (by decide) rfl (by simp only [encode, BitVec.and_or_distrib_right, atX_and_F0FF]; rfl)

theorem setSound (x : Reg) : Statement (.setSound x) :=
  of_row ⟨.setSound, 0xF018#16, 0xF0FF#16⟩ (by decide) rfl (by simp only [encode, BitVec.and_or_distrib_right, atX_and_F0FF]; rfl)

theorem fontAddress (x : Reg) : Statement (.fontAddress x) :=
  of_row ⟨.fontAddress, 0xF029#16, 0xF0FF#16⟩ (by decide) rfl (by simp only [encode, BitVec.and_or_distrib_right, atX_and_F0FF]; rfl)

theorem bcdStore (x : Reg) : Statement (.bcdStore x) :=
  of_row ⟨.bcdStore, 0xF033#16, 0xF0FF#16⟩ (by decide) rfl (by simp only [encode, BitVec.and_or_distrib_right, atX_and_F0FF]; rfl)

theorem regLoad (x : Reg) : Statement (.regLoad x) :=
  of_row ⟨.regLoad, 0xF065#16, 0xF0FF#16⟩ (by decide) rfl (by simp only [encode, BitVec.and_or_distrib_right, atX_and_F0FF]; rfl)

end Sys2Proof.Laws.EncodesInRow
end

