-- ==== Sys2Proof/Tests/Slice0.lean ====
section
/-! SUPPORT. Tests of one step or one word each, their expected results taken from spec/95_test_vectors.md or by hand from
the rule a test's comment names, and a witness for every obligation that has hypotheses. -/

namespace Sys2Proof.Tests

open Sys2Proof.Machine

/-! ### Well-formedness: each check refuses an ill-formed operand (R72) -/

theorem test_register_x_16_does_not_fit : RawOperands.fit { x := 16 } = false := by decide
theorem test_register_y_16_does_not_fit : RawOperands.fit { y := 16 } = false := by decide
theorem test_rows_16_do_not_fit : RawOperands.fit { n := 16 } = false := by decide
theorem test_immediate_256_does_not_fit : RawOperands.fit { kk := 256 } = false := by decide
theorem test_address_4096_does_not_fit : RawOperands.fit { nnn := 4096 } = false := by decide
theorem test_largest_operands_fit : RawOperands.fit { x := 15, y := 15, n := 15, kk := 255, nnn := 4095 } = true := by
  decide

/-! ### Decoding: words of 95_test_vectors.md 2.1, one for every kind, and unsupported ones -/

theorem test_decode_clear_screen : decode 0x00E0#16 = some .clearScreen := by decide
theorem test_decode_clear_screen_ignores_bits : decode 0x07E0#16 = some .clearScreen := by decide
theorem test_decode_return : decode 0x00EE#16 = some .ret := by decide
theorem test_decode_jump : decode 0x1ABC#16 = some (.jump 0xABC) := by decide
theorem test_decode_call : decode 0x2FFE#16 = some (.call 0xFFE) := by decide
theorem test_decode_skip_eq_imm : decode 0x3A7F#16 = some (.skipEqImm 0xA 0x7F) := by decide
theorem test_decode_skip_ne_imm : decode 0x4B00#16 = some (.skipNeImm 0xB 0x00) := by decide
theorem test_decode_load_imm : decode 0x6F12#16 = some (.loadImm 0xF 0x12) := by decide
theorem test_decode_add_imm : decode 0x7C01#16 = some (.addImm 0xC 0x01) := by decide
theorem test_decode_copy : decode 0x8AB0#16 = some (.copy 0xA 0xB) := by decide
theorem test_decode_and : decode 0x8AB2#16 = some (.and 0xA 0xB) := by decide
theorem test_decode_add_carry : decode 0x8AB4#16 = some (.addCarry 0xA 0xB) := by decide
theorem test_decode_sub_flag : decode 0x8AB5#16 = some (.subFlag 0xA 0xB) := by decide
theorem test_decode_load_index : decode 0xA123#16 = some (.loadIndex 0x123) := by decide
theorem test_decode_random_and : decode 0xC5F0#16 = some (.randomAnd 0x5 0xF0) := by decide
theorem test_decode_draw : decode 0xD12F#16 = some (.draw 0x1 0x2 0xF) := by decide
theorem test_decode_skip_key_pressed : decode 0xE39E#16 = some (.skipKeyPressed 0x3) := by decide
theorem test_decode_skip_key_not_pressed : decode 0xE3A1#16 = some (.skipKeyNotPressed 0x3) := by decide
theorem test_decode_get_delay : decode 0xF407#16 = some (.getDelay 0x4) := by decide
theorem test_decode_set_delay : decode 0xF415#16 = some (.setDelay 0x4) := by decide
theorem test_decode_set_sound : decode 0xF418#16 = some (.setSound 0x4) := by decide
theorem test_decode_font_address : decode 0xF429#16 = some (.fontAddress 0x4) := by decide
theorem test_decode_bcd_store : decode 0xF433#16 = some (.bcdStore 0x4) := by decide
theorem test_decode_reg_load : decode 0xF465#16 = some (.regLoad 0x4) := by decide

/-! The unsupported words of 95_test_vectors.md 2.1. -/

theorem test_decode_unsupported_low :
    decode 0x0000#16 = none ∧ decode 0x0123#16 = none ∧ decode 0x5120#16 = none ∧ decode 0x8AB1#16 = none ∧ decode
    0x8AB3#16 = none ∧ decode 0x8AB6#16 = none ∧ decode 0x8AB7#16 = none ∧ decode 0x8ABE#16 = none := by decide
theorem test_decode_unsupported_high :
    decode 0x9AB0#16 = none ∧ decode 0xB123#16 = none ∧ decode 0xE39F#16 = none ∧ decode 0xF40A#16 = none ∧ decode
    0xF41E#16 = none ∧ decode 0xF455#16 = none ∧ decode 0xF400#16 = none ∧ decode 0xFFFF#16 = none := by decide

/-- A word laid out in memory order reads back through the decoder (R53). -/
theorem test_decode_table_word : decodeTableWord 16 0x8AB5 = some (.subFlag 0xA 0xB) := by decide

theorem test_too_few_bytes_do_not_decode : decodeBytes [0x12] = .error .truncated := by decide

/-! ### One step from a small state -/

/-- No key pressed. -/
def noKeys : Keypad := Vector.replicate 16 false

/-- Only key 5 pressed. -/
def key5 : Keypad := noKeys.set 5 true

/-- The construction state with PC at `pc` and the word `w` there. -/
def put (pc w : Nat) : State := (State.reset.setPc pc).withFetchWord 16 w

/-- With `V[x]` at `b`. -/
def vx (x : Reg) (b : Byte) (s : State) : State := s.writeReg x b

/-- With `n` return addresses 0x206 on the stack. -/
def deep (n : Fin 17) (s : State) : State := { s with sp := n, stack := Vector.replicate 16 0x206 }

/-- With the given byte of memory. -/
def poke (a : Nat) (b : Byte) (s : State) : State := s.memWrite a b

/-- The state after one step with the given inputs. -/
def after (s : State) (keys : Keypad := noKeys) (rand : Byte := 0) : State :=
  match stepWith keys rand s with
  | .next t => t
  | _ => State.reset

/-- The lit pixels, (row, column), of the given rows and columns. -/
def lits (rows cols : List Nat) (fb : Framebuffer) : List (Nat × Nat) :=
  rows.flatMap fun r => (cols.filter fun c => fb.lit (Fin.ofNat 32 r, Fin.ofNat 64 c)).map fun c => (r, c)

/-! 95_test_vectors.md 2.2 -/

theorem test_call_pushes : let t := after (put 0x204 0x2210)
    t.stack[0] = 0x206#16 ∧ t.sp.val = 1 ∧ t.pc = 0x210#16 := by decide
theorem test_call_odd_target_with_full_stack : (after (deep 16 (put 0x200 0x2301))).fault =
    some (.outOfBoundsAccess .stackOverflow 16 0x2301#16 0x200#16) := by decide
theorem test_return_pops : let t := after (deep 1 (put 0x212 0x00EE))
    t.pc = 0x206#16 ∧ t.sp.val = 0 ∧ t.fault = none := by decide
theorem test_return_on_empty_stack : (after (put 0x200 0x00EE)).fault =
    some (.outOfBoundsAccess .stackUnderflow 0 0x00EE#16 0x200#16) := by decide
theorem test_jump_to_last_word : (after (put 0x200 0x1FFE)).pc = 0xFFE#16 := by decide
theorem test_jump_to_odd_address : let t := after (put 0x200 0x1201)
    t.fault = some (.outOfBoundsAccess .programCounter 0x201 0x1201#16 0x200#16) ∧ t.pc = 0x200#16 := by decide

/-! 95_test_vectors.md 2.3 -/

theorem test_skip_eq_imm_taken : (after (vx 4 0x10 (put 0x300 0x3410))).pc = 0x304#16 := by decide
theorem test_skip_eq_imm_taken_at_the_top : (after (put 0xFFC 0x3000)).fault =
    some (.outOfBoundsAccess .programCounter 0x1000 0x3000#16 0xFFC#16) := by decide
theorem test_skip_ne_imm_not_taken : (after (vx 4 0x10 (put 0x300 0x4410))).pc = 0x302#16 := by decide
theorem test_skip_ne_imm_taken : (after (vx 4 0x10 (put 0x300 0x4411))).pc = 0x304#16 := by decide
theorem test_skip_key_pressed : (after (vx 3 5 (put 0x300 0xE39E)) key5).pc = 0x304#16 := by decide
theorem test_skip_key_pressed_bad_key : (after (vx 3 0x10 (put 0x300 0xE39E))).fault =
    some (.outOfBoundsAccess .keyIndex 0x10 0xE39E#16 0x300#16) := by decide
theorem test_skip_key_not_pressed : (after (vx 3 5 (put 0x300 0xE3A1)) key5).pc = 0x302#16 := by decide
theorem test_skip_key_not_pressed_taken : (after (vx 3 5 (put 0x300 0xE3A1))).pc = 0x304#16 := by decide

/-! 95_test_vectors.md 2.4 -/

theorem test_load_imm : (after (put 0x200 0x6A7F)).reg 0xA = 0x7F#8 := by decide
theorem test_load_imm_at_the_top : let t := after (put 0xFFE 0x6001)
    t.fault = some (.outOfBoundsAccess .programCounter 0x1000 0x6001#16 0xFFE#16) ∧ t.reg 0 = 0 := by decide
theorem test_add_imm_wraps_without_flag : let t := after (vx 0 0xFF (put 0x200 0x7001))
    t.reg 0 = 0 ∧ t.reg 15 = 0 := by decide
theorem test_add_imm_on_vf : (after (vx 15 0x05 (put 0x200 0x7FFF))).reg 15 = 0x04#8 := by decide
theorem test_copy : (after (vx 1 0x2A (put 0x200 0x8010))).reg 0 = 0x2A#8 := by decide
theorem test_and : (after (vx 0 0xF0 (vx 1 0x3C (put 0x200 0x8012)))).reg 0 = 0x30#8 := by decide
theorem test_add_carry : let t := after (vx 0 0x80 (vx 1 0x80 (put 0x200 0x8014)))
    t.reg 0 = 0 ∧ t.reg 15 = 1 := by decide
theorem test_add_carry_into_vf : (after (vx 15 0xFF (vx 1 0x01 (put 0x200 0x8F14)))).reg 15 = 1 := by decide
theorem test_sub_flag_on_equal_operands : let t := after (vx 0 0x05 (vx 1 0x05 (put 0x200 0x8015)))
    t.reg 15 = 0 ∧ t.reg 0 = 0 := by decide
theorem test_sub_flag_from_vf : (after (vx 15 0x07 (vx 4 0x03 (put 0x200 0x8F45)))).reg 15 = 0xFE#8 := by decide
theorem test_random_and : (after (put 0x200 0xC00F) noKeys 0xAB).reg 0 = 0x0B#8 := by decide

/-! 95_test_vectors.md 2.5 -/

theorem test_load_index : (after (put 0x200 0xAFFF)).index = 0xFFF#16 := by decide
theorem test_font_address_multiplies_the_whole_value : (after (vx 2 0xFF (put 0x200 0xF229))).index = 0x4FB#16 := by
  decide
theorem test_bcd_store : let t := after (vx 0 0xFF ((put 0x200 0xF033).setIndex 0x300))
    t.mem.byteAt 0x300 = 2 ∧ t.mem.byteAt 0x301 = 5 ∧ t.mem.byteAt 0x302 = 5 ∧ t.index = 0x300#16 := by decide
theorem test_bcd_store_past_the_end : let t := after (vx 0 0x07 ((put 0x200 0xF033).setIndex 0xFFE))
    t.fault = some (.outOfBoundsAccess .memory 0x1000 0xF033#16 0x200#16) ∧ t.mem = (put 0x200 0xF033).mem := by decide
theorem test_reg_load_reads_the_font : (after (put 0x200 0xF065)).reg 0 = 0xF0#8 := by decide
theorem test_reg_load_past_the_end : (after ((put 0x200 0xFF65).setIndex 0xFF1)).fault =
    some (.outOfBoundsAccess .memory 0x1000 0xFF65#16 0x200#16) := by decide

/-! 95_test_vectors.md 2.6 -/

theorem test_clear_screen_presents : let t := after ((put 0x200 0x00E0).clearFb)
    t.presents = [Framebuffer.blank] ∧ t.dirty = false := by decide
/-- Glyph 0 at column 62, row 30: 14 pixels, wrapped right and down. -/
theorem test_draw_wraps : let t := after (vx 0 62 (vx 1 30 (put 0x200 0xD015)))
    lits [30, 31, 0, 1, 2] [62, 63, 0, 1, 2, 61] t.fb =
      [(30, 62), (30, 63), (30, 0), (30, 1), (31, 62), (31, 1), (0, 62), (0, 1), (1, 62), (1, 1), (2, 62), (2, 63), (2, 0),
       (2, 1)] ∧ t.reg 15 = 0 ∧ t.presents.length = 1 := by decide
/-- Drawing the glyph on itself erases it and sets VF. -/
theorem test_draw_collides : let s := vx 0 62 (vx 1 30 (put 0x200 0xD015))
    let t := after { s with fb := (after s).fb }
    t.fb = Framebuffer.blank ∧ t.reg 15 = 1 := by decide

/-! 95_test_vectors.md 2.7 -/

theorem test_get_delay_reads_before_the_tick : let t := after ((put 0x200 0xF107).setDelay 4)
    t.reg 1 = 4 ∧ t.dt = 3 := by decide
theorem test_set_delay_ticks_in_its_cycle : (after (vx 0 5 (put 0x200 0xF015))).dt = 4 := by decide
theorem test_set_sound_ticks_in_its_cycle : (after (vx 0 1 (put 0x200 0xF018))).st = 0 := by decide
theorem test_set_sound_zero_does_not_wrap : (after (put 0x200 0xF018)).st = 0 := by decide
theorem test_unsupported_word_does_not_tick : let t := after ((put 0x200 0x5000).setDelay 9)
    t.fault = some (.unknownOpcode 0x5000#16 0x200#16) ∧ t.dt = 9 := by decide

/-! Reset, load and the host's moves -/

/-- L1-10: a ROM of 3585 bytes is rejected. -/
theorem test_rom_of_3585_bytes_is_rejected (image : List Byte) (h : image.length = 3585) :
    State.reset.loadRom image = none := by simp [State.loadRom, h]
/-- R251: two bytes of a ROM, big-endian at 0x200, run as the first instruction. -/
theorem test_rom_runs_from_0x200 :
    ((State.reset.loadRom [0x60, 0x03]).map fun s => (after s).reg 0) = some 3 := by decide
/-- R251: an empty ROM faults at once. -/
theorem test_first_step_after_reset : (after State.reset).fault = some (.unknownOpcode 0x0000#16 0x200#16) := by decide
/-- R232: physical key Q is logical key 4. -/
theorem test_key_transition : noKeys.transition .kQ true = noKeys.set 4 true := by decide

/-! ### Witnesses: every obligation's hypotheses are met together, at boundary values of each clause -/

/-- What a step answers, where it is a next state. -/
def nextOf (s : State) : State :=
  match step s with
  | .next t => t
  | _ => State.reset

/-- A state that meets the invariant and is not reset: load-imm at the last word of memory. -/
def last : State := put 0xFFE 0x6A7F

theorem last_inv : last.Inv := ⟨by decide, by decide, by decide, by decide, by decide⟩

theorem witness_EveryStepKeepsTheInvariant : ∃ s t, s.Inv ∧ step s = .next t := ⟨last, nextOf last, last_inv, rfl⟩
theorem witness_InvariantStatesRunForever : ∃ s : State, s.Inv := ⟨last, last_inv⟩
theorem witness_RomLoadIsByteForByteOrAnError :
    (∃ image : List Byte, image.length ≤ 3584 ∧ 3583 < image.length) ∧ (∃ image : List Byte, 3584 < image.length) :=
  ⟨⟨List.replicate 3584 0, by rw [List.length_replicate]; omega⟩, ⟨List.replicate 3585 0, by rw [List.length_replicate]; omega⟩⟩
theorem witness_OpcodeMapGivesTheKind : ∃ r ∈ opcodeMap, r.covers 0x0FEE#16 = true :=
  ⟨⟨.ret, 0x00EE#16, 0xF0FF#16⟩, by decide, by decide⟩
theorem witness_UnsupportedWordsRaiseUnknownOpcode : ∃ (s : State) (w : Word), s.fault = none ∧
    s.fetchWord = some w ∧ decode w = none := ⟨put 0xFFE 0x8AB7, 0x8AB7#16, by decide, by decide, by decide⟩
theorem witness_EncoderFollowsTheMap : ∃ w i, decode w = some i ∧ i = .clearScreen ∧ encode i ≠ w :=
  ⟨0x0FE0#16, .clearScreen, by decide, rfl, by decide⟩
theorem witness_FetchIsBigEndian : ∃ s : State, s.pc.toNat = 4094 ∧
    ∃ (hi lo : Byte) (w : Word), w.toNat = hi.toNat * 256 + lo.toNat :=
  ⟨last, by decide, 0xFF, 0xFF, 0xFFFF, by decide⟩
theorem witness_PlacedWordIsFetched : ∃ (s : State) (w : Nat), s.mem.wf = true ∧ s.pc.toNat = 4094 ∧ w = 65535 :=
  ⟨last, 65535, by decide, by decide, rfl⟩
theorem witness_StepRunsTheDecodedInstruction : ∃ (s : State) (w : Word) (i : Instr), s.fault = none ∧
    s.fetchWord = some w ∧ decode w = some i ∧ (nextOf s).fault ≠ none :=
  ⟨last, 0x6A7F#16, .loadImm 0xA 0x7F, by decide, by decide, by decide, by decide⟩
theorem witness_StepReadsTheInputsItIsGiven : ∃ (s : State) (w : Word), s.fault = none ∧ s.fetchWord = some w ∧
    s.inputs = [] := ⟨last, 0x6A7F#16, by decide, by decide, by decide⟩
theorem witness_HaltedCoreHasNoStep : ∃ s : State, s.fault ≠ none := ⟨nextOf last, by decide⟩
theorem witness_FaultEntryIsPreciseAndKeepsTheState : ∃ (s t : State) (w : Word), s.fault = none ∧
    s.fetchWord = some w ∧ step s = .next t ∧ t.fault ≠ none :=
  ⟨last, nextOf last, 0x6A7F#16, by decide, by decide, rfl, by decide⟩
theorem witness_FirstErrorOrNextPcDecides :
    last.firstError (.bcdStore 0) = some (.programCounter, 4096) ∧
    (last.setIndex 4094).firstError (.bcdStore 0) = some (.memory, 4096) ∧
    (put 0xFFC 0x6A7F).firstError (.loadImm 0xA 0x7F) = none := by decide
theorem witness_ProgramCounterIsLegalOrFault : ∃ s t : State, s.fault = none ∧ step s = .next t ∧ t.fault = none :=
  ⟨put 0xFFC 0x6A7F, nextOf (put 0xFFC 0x6A7F), by decide, rfl, by decide⟩
/-- A return address of 4096 on the stack, which only a call at 4094 pushes. -/
def atTheEnd : State := { last with sp := 1, stack := Vector.replicate 16 0x1000 }

theorem atTheEnd_inv : atTheEnd.Inv := ⟨by decide, by decide, by decide, by decide, by decide⟩

/-- A skip taken at 4092. -/
def skipping : State := put 0xFFC 0x3000

theorem skipping_inv : skipping.Inv := ⟨by decide, by decide, by decide, by decide, by decide⟩

/-- What Execute answers, where it is a next state. -/
def execOf (i : Instr) (s : State) : State :=
  match exec i s with
  | .next t => t
  | _ => State.reset

/-- The hypotheses of the first clause, the error's value being `value`. -/
def RaisesPc (i : Instr) (s : State) (value : Nat) : Prop :=
  s.Inv ∧ s.fault = none ∧ ∃ t w a, exec i s = .next t ∧ t.fault = some (.outOfBoundsAccess .programCounter value w a)

/-- A witness for each of the four cases, the skip's at both of its addresses. -/
theorem witness_PcErrorsAreTheListedCases_only : RaisesPc (.jump 0xFFF) last 0xFFF ∧ RaisesPc (.call 0x001) last 0x001 ∧
    RaisesPc .ret atTheEnd 4096 ∧ RaisesPc (.loadImm 0 0) last 4096 ∧ RaisesPc (.skipEqImm 0 0) last 4098 ∧
    RaisesPc (.skipEqImm 0 0) skipping 4096 :=
  ⟨⟨last_inv, by decide, execOf (.jump 0xFFF) last, 0x6A7F#16, 0xFFE#16, rfl, by decide⟩,
    ⟨last_inv, by decide, execOf (.call 0x001) last, 0x6A7F#16, 0xFFE#16, rfl, by decide⟩,
    ⟨atTheEnd_inv, by decide, execOf .ret atTheEnd, 0x6A7F#16, 0xFFE#16, rfl, by decide⟩,
    ⟨last_inv, by decide, execOf (.loadImm 0 0) last, 0x6A7F#16, 0xFFE#16, rfl, by decide⟩,
    ⟨last_inv, by decide, execOf (.skipEqImm 0 0) last, 0x6A7F#16, 0xFFE#16, rfl, by decide⟩,
    ⟨skipping_inv, by decide, execOf (.skipEqImm 0 0) skipping, 0x3000#16, 0xFFC#16, rfl, by decide⟩⟩
/-- A witness for each case of the second clause. -/
theorem witness_PcErrorsAreTheListedCases_all :
    (last.handlerError (.call 0x001) = none ∧ (0x001#12).toNat % 2 = 1) ∧
    (atTheEnd.handlerError .ret = none ∧ atTheEnd.topOfStack = 4096) ∧
    (last.handlerError (.loadImm 0 0) = none ∧ last.pc.toNat = 4094) ∧
    (skipping.handlerError (.skipEqImm 0 0) = none ∧ skipping.pc.toNat = 4092 ∧
      skipping.nextPc (.skipEqImm 0 0) = skipping.pc.toNat + 4) := by decide
theorem witness_TimersTickOncePerCommittedCycle :
    (∃ s t : State, s.fault = none ∧ step s = .next t ∧ t.fault ≠ none) ∧
    (∃ s t : State, s.fault = none ∧ step s = .next t ∧ t.fault = none) :=
  ⟨⟨last, nextOf last, by decide, rfl, by decide⟩,
    ⟨put 0x200 0xF015, nextOf (put 0x200 0xF015), by decide, rfl, by decide⟩⟩

/-- set-delay V0, load-imm, get-delay V1. -/
def delayed : State :=
  vx 0 5 (Memory.writeBytes [] 0x200 [0xF0, 0x15, 0x60, 0x00, 0xF1, 0x07] |> State.reset.setMem)
theorem witness_DelayReadsBackCountedDown : ∃ s s1 u t : State, s.fault = none ∧ s.nextInstr = some (.setDelay 0) ∧
    step s = .next s1 ∧ s1.fault = none ∧ runWhile State.leavesDelay 1 s1 = some u ∧
    u.nextInstr = some (.getDelay 1) ∧ step u = .next t ∧ t.fault = none ∧ t.reg 1 = 3 :=
  ⟨delayed, nextOf delayed, nextOf (nextOf delayed), nextOf (nextOf (nextOf delayed)), by decide, by decide, rfl,
    by decide, rfl, by decide, rfl, by decide, by decide⟩
theorem witness_PresentsExactlyWhenDirty :
    (∃ s t : State, s.fault = none ∧ step s = .next t ∧ t.fault ≠ none ∧ s.nextInstr = some .clearScreen) ∧
    (∃ s t : State, s.fault = none ∧ step s = .next t ∧ t.fault = none ∧ s.nextInstr = some .clearScreen) ∧
    (∃ s t : State, s.fault = none ∧ step s = .next t ∧ t.fault = none ∧ s.dirty = false ∧
      s.nextInstr = some (.loadImm 0xA 0x7F)) :=
  ⟨⟨put 0xFFE 0x00E0, nextOf (put 0xFFE 0x00E0), by decide, rfl, by decide, by decide⟩,
    ⟨put 0x200 0x00E0, nextOf (put 0x200 0x00E0), by decide, rfl, by decide, by decide⟩,
    ⟨put 0x200 0x6A7F, nextOf (put 0x200 0x6A7F), by decide, rfl, by decide, by decide, by decide⟩⟩
theorem witness_EachElementHasItsWriters : ∃ (s t : State) (i : Instr), s.fault = none ∧ s.nextInstr = some i ∧
    step s = .next t ∧ t.fault = none ∧ mayWrite i 15 = false :=
  ⟨put 0xFFC 0xA123, nextOf (put 0xFFC 0xA123), .loadIndex 0x123, by decide, by decide, rfl, by decide, by decide⟩
theorem witness_InputsAreReadOnlyByTheirInstructions : ∃ i : Instr, (∀ x, i ≠ .skipKeyPressed x) ∧
    (∀ x, i ≠ .skipKeyNotPressed x) ∧ (∀ x kk, i ≠ .randomAnd x kk) ∧ (∀ x, i ≠ .setSound x) ∧
    GoodPc ((put 0xFFC 0xA123).pc.toNat + 2) :=
  ⟨.clearScreen, by simp, by simp, by simp, by simp, by decide⟩
theorem witness_JumpGoesToItsAddress : (0xFFE#12).toNat % 2 = 0 ∧ (0xFFF#12).toNat % 2 = 1 := by decide
theorem witness_CallPushesTheNextAddress : (deep 16 last).sp.val = 16 ∧ (deep 15 last).sp.val < 16 ∧
    (0xFFE#12).toNat % 2 = 0 ∧ (0xFFF#12).toNat % 2 = 1 := by decide
theorem witness_ReturnPopsTheStack : last.sp.val = 0 ∧ 0 < (deep 16 last).sp.val ∧
    (deep 16 last).stack[(deep 16 last).sp.val - 1]? = some 0x206#16 ∧ GoodPc 0x206 ∧ GoodPc 4094 ∧ ¬GoodPc 4096 ∧
    ¬GoodPc 4093 := by decide

/-- A call at 0x204 of a routine at 0x210 that adds to V1 and returns. -/
def calling : State :=
  ((State.reset.setPc 0x204).setMem (Memory.writeBytes [] 0x204 [0x22, 0x10])).setMem
    (Memory.writeBytes (Memory.writeBytes [] 0x204 [0x22, 0x10]) 0x210 [0x71, 0x02, 0x00, 0xEE])
theorem witness_CallThenMatchingReturnResumes : ∃ s t u : State, s.fault = none ∧ s.nextInstr = some (.call 0x210) ∧
    step s = .next t ∧ t.fault = none ∧ runWhile (fun q => decide (s.sp.val < q.sp.val)) 1 t = some u ∧
    u.sp.val = s.sp.val + 1 ∧ u.nextInstr = some .ret ∧ GoodPc (s.pc.toNat + 2) :=
  ⟨calling, nextOf calling, nextOf (nextOf calling), by decide, by decide, rfl, by decide, rfl, by decide, by decide,
    by decide⟩
theorem witness_ImmediateSkips : last.reg 0 = 0#8 ∧ GoodPc ((put 0xFFA 0x3000).pc.toNat + 4) ∧
    ¬GoodPc ((put 0xFFC 0x3000).pc.toNat + 4) ∧ GoodPc ((put 0xFFC 0x3000).pc.toNat + 2) ∧ ¬GoodPc (last.pc.toNat + 2) := by
  decide
theorem witness_KeySkips : 15 < ((vx 3 16 last).reg 3).toNat ∧ ((vx 3 15 last).reg 3).toNat < 16 ∧
    last.keys[15] = false ∧ key5[5] = true := by decide
/-- PC 4092 is the last at which an instruction that advances by 2 completes. -/
theorem witness_pc_4092 : GoodPc ((put 0xFFC 0x6A7F).pc.toNat + 2) := by decide
theorem witness_MoveAddAndLogicResults : ∃ s : State, GoodPc (s.pc.toNat + 2) := ⟨_, witness_pc_4092⟩
theorem witness_AddCarryResultAndFlag : ∃ s : State, GoodPc (s.pc.toNat + 2) := ⟨_, witness_pc_4092⟩
theorem witness_SubFlagResultAndFlag : ∃ s : State, GoodPc (s.pc.toNat + 2) := ⟨_, witness_pc_4092⟩
theorem witness_RandomAndMasksTheRandomByte : ∃ s : State, GoodPc (s.pc.toNat + 2) := ⟨_, witness_pc_4092⟩
theorem witness_IndexResults : ∃ s : State, GoodPc (s.pc.toNat + 2) := ⟨_, witness_pc_4092⟩
theorem witness_BcdStoreWritesThreeDigits : ∃ s : State, s.mem.wf = true ∧ s.index.toNat + 2 = 4095 ∧
    GoodPc (s.pc.toNat + 2) ∧ (s.setIndex 4094).index.toNat + 2 > 4095 :=
  ⟨(put 0xFFC 0xF033).setIndex 4093, by decide, by decide, by decide, by decide⟩
theorem witness_RegLoadFillsTheBlock : ∃ s : State, s.index.toNat + (15 : Reg).val = 4095 ∧ GoodPc (s.pc.toNat + 2) ∧
    (s.setIndex 4081).index.toNat + (15 : Reg).val > 4095 :=
  ⟨(put 0xFFC 0xFF65).setIndex 4080, by decide, by decide, by decide⟩
theorem witness_CanonicalMemoriesThatReadAlikeAreEqual : ∃ m m' : Memory, m.wf = true ∧ m'.wf = true ∧
    ∀ a, a < 4096 → m.byteAt a = m'.byteAt a := ⟨last.mem, last.mem, by decide, by decide, fun _ _ => rfl⟩
/-- A bcd-store whose three bytes are those of the next instruction and the byte after it. -/
def overwriting : State := (put 0x200 0xF033).setIndex 0x202
theorem witness_StoredBytesAreFetchedNext : ∃ s t : State, s.mem.wf = true ∧ s.fault = none ∧
    s.nextInstr = some (.bcdStore 0) ∧ step s = .next t ∧ t.fault = none :=
  ⟨overwriting, nextOf overwriting, by decide, by decide, by decide, rfl, by decide⟩
theorem witness_ClearScreenBlanksTheFramebuffer : ∃ s : State, GoodPc (s.pc.toNat + 2) := ⟨_, witness_pc_4092⟩
/-- A sprite of one lit pixel at the last byte of memory, on a blank and on a lit framebuffer. -/
def sprite : State := (poke 4095 0x80 (put 0xFF8 0xD011)).setIndex 4095
theorem witness_DrawXorsEveryPixelOfTheSprite : sprite.SpriteInMemory 1 ∧ ¬sprite.SpriteInMemory 2 ∧
    sprite.SpriteInMemory 0 ∧ GoodPc (sprite.pc.toNat + 2) ∧ sprite.SpriteLights 0 0 1 (0, 0) ∧
    ¬sprite.SpriteLights 0 0 1 (0, 8) ∧ sprite.fb.lit (0, 0) = false ∧ (nextOf sprite).fb.lit (0, 0) = true ∧
    (nextOf sprite).SpriteLights 0 0 1 (0, 0) := by
  refine ⟨by decide, by decide, by decide, by decide, ⟨0, 0, by decide⟩, ?_, by decide, by decide, ⟨0, 0, by decide⟩⟩
  rintro ⟨dy, dx, _, h, _, hc, _⟩
  exact absurd hc (by simp; omega)
theorem witness_NoPixelIsHitTwice : ∃ rows : List Byte, rows.length = 15 := ⟨List.replicate 15 0xFF, by decide⟩
theorem witness_DrawingTwiceRestoresTheFramebuffer : (0 : Reg).val ≠ 15 ∧ (14 : Reg).val ≠ 15 ∧
    sprite.SpriteInMemory 1 ∧ GoodPc (sprite.pc.toNat + 2) ∧ GoodPc (sprite.pc.toNat + 4) := by decide
theorem witness_TimerInstructionResults : ∃ s : State, GoodPc (s.pc.toNat + 2) := ⟨_, witness_pc_4092⟩

end Sys2Proof.Tests
end

section
/-! PROOFS. Construction with a font (00_scope.md rule R6, 70_reset_and_hazards.md rule R250): what memory it builds, that
it meets the invariant, and that the default font gives the reset state. -/

namespace Sys2Proof.Machine

/-! ### Memory as construction with the default font leaves it -/

/-- A canonical memory that reads as the reset contents everywhere lists nothing: a first listed cell would differ. -/
theorem Memory.eq_nil_of_byteAt_eq_resetByte {m : Memory} (hm : m.wf = true)
    (h : ∀ a, m.byteAt a = Memory.resetByte a) : m = [] := by
  cases m with
  | nil => rfl
  | cons cell rest =>
    obtain ⟨k, c⟩ := cell
    obtain ⟨-, -, hc, -⟩ := (Memory.wfFrom_cons ..).1 hm
    have hk : c = Memory.resetByte k := by simpa [Memory.byteAt_cons] using h k
    exact absurd hk hc

theorem Memory.resetByte_of_le {a : Nat} (h : 80 ≤ a) : Memory.resetByte a = 0 := by
  simp [Memory.resetByte, h]

/-! ### The invariant of a state with another memory -/

theorem State.reset_inv : State.reset.Inv where
  mem_wf := rfl
  pc_good := by decide
  index_le := by decide
  stack_good := by decide
  clean := rfl

/-- Of the invariant, only the canonical form speaks of memory. -/
theorem State.Inv.setMem {s : State} (h : s.Inv) {m : Memory} (hm : m.wf = true) : (s.setMem m).Inv where
  mem_wf := hm
  pc_good := h.pc_good
  index_le := h.index_le
  stack_good := h.stack_good
  clean := h.clean

/-! ### Construction -/

theorem State.construct_eq_setMem (font : Config.Font) :
    State.construct font = State.reset.setMem (State.construct font).mem := rfl

theorem State.wf_construct_mem (font : Config.Font) : (State.construct font).mem.wf = true :=
  Memory.wf_writeBytes font.toList State.reset_inv.mem_wf (by simp)

theorem State.construct_inv (font : Config.Font) : (State.construct font).Inv :=
  State.reset_inv.setMem (State.wf_construct_mem font)

/-- Memory after construction (R250): the font's bytes, and 0 past its end. -/
theorem State.byteAt_construct_mem (font : Config.Font) (a : Nat) :
    (State.construct font).mem.byteAt a = (font[a]?).getD 0 := by
  rw [State.construct, State.setMem_mem, Memory.byteAt_writeBytes font.toList State.reset_inv.mem_wf (by simp)]
  by_cases ha : a < 80
  · simp [ha]
  · have hreset : State.reset.mem.byteAt a = 0 := Memory.resetByte_of_le (by omega)
    simp [ha, hreset]

/-- The default font's bytes are what unlisted addresses read as, so its construction lists nothing. -/
theorem State.construct_defaultFont : State.construct Config.defaultFont = State.reset := by
  have hmem : (State.construct Config.defaultFont).mem = [] :=
    Memory.eq_nil_of_byteAt_eq_resetByte (State.wf_construct_mem _) (State.byteAt_construct_mem _)
  rw [State.construct_eq_setMem, hmem]
  rfl

/-- Settles O3: memory is read off the 80 writes of construction, which keep the canonical form and touch nothing else;
a memory that reads as the reset contents is the reset memory. -/
theorem constructionTakesAnyFont : Obligations.ConstructionTakesAnyFont := by
  refine ⟨fun font => ⟨fun k => ?_, fun a ha => ?_, State.construct_eq_setMem font, State.construct_inv font⟩,
    State.construct_defaultFont⟩
  · simp [State.byteAt_construct_mem]
  · simp [State.byteAt_construct_mem, ha]

end Sys2Proof.Machine
end

section
/-! PROOFS. What a handler's writes leave alone, element by element (10_state.md; 40_cycle_driver.md rule R110), and that
over a committed cycle only an element's own instructions write it. -/

namespace Sys2Proof.Machine

/-! ### The stack instructions' writes -/

theorem effect_ret_frame (s : State) : effect s .ret = { s with sp := (effect s .ret).sp } := by
  rcases s.pop_cases with ⟨_, hp⟩ | ⟨_, hp⟩ <;> simp [effect, hp]

theorem effect_call_frame (s : State) (nnn : Addr) :
    effect s (.call nnn) = { s with sp := (effect s (.call nnn)).sp, stack := (effect s (.call nnn)).stack } := by
  rcases s.push_cases (a := BitVec.ofNat 16 s.pcNext) with ⟨_, hp⟩ | ⟨_, hp⟩ <;> simp [effect, hp]

/-! ### One frame per element -/

/-- Memory is written by bcd-store alone (R52). -/
theorem effect_mem (s : State) {i : Instr} (h : ∀ x, i ≠ .bcdStore x) : (effect s i).mem = s.mem := by
  cases i with
  | ret => rw [effect_ret_frame]
  | call nnn => rw [effect_call_frame]
  | bcdStore x => exact absurd rfl (h x)
  | _ => simp [effect]

/-- `I` is written by load-index and font-address alone (R25). -/
theorem effect_index (s : State) {i : Instr} (hl : ∀ nnn, i ≠ .loadIndex nnn) (hf : ∀ x, i ≠ .fontAddress x) :
    (effect s i).index = s.index := by
  cases i with
  | ret => rw [effect_ret_frame]
  | call nnn => rw [effect_call_frame]
  | loadIndex nnn => exact absurd rfl (hl nnn)
  | fontAddress x => exact absurd rfl (hf x)
  | _ => simp [effect]

/-- SP is written by call and return alone (R27). -/
theorem effect_sp (s : State) {i : Instr} (hc : ∀ nnn, i ≠ .call nnn) (hr : i ≠ .ret) : (effect s i).sp = s.sp := by
  cases i with
  | ret => exact absurd rfl hr
  | call nnn => exact absurd rfl (hc nnn)
  | _ => simp [effect]

/-- The stack slots are written by call alone: a return leaves the slot it pops (R27, R120). -/
theorem effect_stack (s : State) {i : Instr} (hc : ∀ nnn, i ≠ .call nnn) : (effect s i).stack = s.stack := by
  cases i with
  | ret => rw [effect_ret_frame]
  | call nnn => exact absurd rfl (hc nnn)
  | _ => simp [effect]

/-- FB is written by clear-screen and draw alone (R29). -/
theorem effect_fb (s : State) {i : Instr} (hc : i ≠ .clearScreen) (hd : ∀ x y n, i ≠ .draw x y n) :
    (effect s i).fb = s.fb := by
  cases i with
  | ret => rw [effect_ret_frame]
  | call nnn => rw [effect_call_frame]
  | clearScreen => exact absurd rfl hc
  | draw x y n => exact absurd rfl (hd x y n)
  | _ => simp [effect]

@[simp] theorem State.reg_drawSprite (s : State) (ox oy : Nat) (rows : List Byte) (r : Reg) :
    (s.drawSprite ox oy rows).reg r = if r = flagReg then collisionFlag (composite ox oy rows s.fb).2 else s.reg r := by
  simp [State.drawSprite]

/-- A register is written by the instructions that name it, VF also by add-carry, sub-flag and draw (R22, R23). -/
theorem effect_reg (s : State) {i : Instr} {r : Reg} (h : mayWrite i r = false) : (effect s i).reg r = s.reg r := by
  cases i with
  | ret => exact State.reg_congr _ _ (congrArg State.v (effect_ret_frame s)) r
  | call nnn => exact State.reg_congr _ _ (congrArg State.v (effect_call_frame s nnn)) r
  | regLoad x =>
    have hx : ¬r.val < x.val + 1 := by simpa [mayWrite, Nat.lt_succ_iff] using h
    rw [effect, State.reg_loadRegs s (by omega), if_neg hx]
  | addCarry x y | subFlag x y =>
    have hr : r ≠ x ∧ r ≠ flagReg := by simpa [mayWrite] using h
    simp [effect, State.addCarry, State.subFlagFirst, State.subSecond, hr]
  | draw x y n =>
    have hr : r ≠ flagReg := by simpa [mayWrite] using h
    simp [effect, hr]
  | loadImm x _ | addImm x _ | copy x _ | and x _ | randomAnd x _ | getDelay x =>
    have hr : r ≠ x := by simpa [mayWrite] using h
    simp [effect, hr]
  | _ => simp [effect]

/-! ### Over a committed cycle -/

/-- Settles O25: the stages around Execute touch none of these elements, so each clause is the frame of the handler's
writes. -/
theorem eachElementHasItsWriters : Obligations.EachElementHasItsWriters := by
  intro s t i h0 hi h ht
  obtain ⟨j, hj, -, -, rfl⟩ := step_committed h0 h ht
  obtain rfl : i = j := Option.some.inj (hi.symm.trans hj)
  refine ⟨fun hb a => ?_, fun hl hf => ?_, fun hc hr => ?_, fun hc => ?_, fun hc hd => ?_, fun r hr => ?_⟩
  · simp [effect_mem _ hb]
  · simp [effect_index _ hl hf]
  · simp [effect_sp _ hc hr]
  · simp [effect_stack _ hc]
  · simp [effect_fb _ hc hd]
  · simp [effect_reg _ hr]

end Sys2Proof.Machine
end

section
/-! PROOFS. The invariant of the states between cycles: it holds after construction and every step keeps it, and after any
committed cycle the PC is legal (10_state.md rules R25 to R27, R30; 40_cycle_driver.md rules R106, R109). -/

namespace Sys2Proof.Machine

/-! ### What a handler's writes keep of the invariant -/

theorem wf_effect_mem {s : State} (hm : s.mem.wf = true) (i : Instr) : (effect s i).mem.wf = true := by
  by_cases h : ∃ x, i = .bcdStore x
  · obtain ⟨x, rfl⟩ := h
    exact State.wf_storeBcd _ hm
  · rw [effect_mem s (not_exists.1 h)]
    exact hm

/-- `I` stays within 0..4095: load-index writes a 12-bit address, font-address at most 255 * 5 (R25, R160, R161). -/
theorem effect_index_le {s : State} (hs : s.index.toNat ≤ 4095) (i : Instr) : (effect s i).index.toNat ≤ 4095 := by
  by_cases hl : ∃ nnn, i = .loadIndex nnn
  · obtain ⟨nnn, rfl⟩ := hl
    have := nnn.isLt
    rw [effect, State.setIndex_index, BitVec.toNat_setWidth, Nat.mod_eq_of_lt (by omega)]
    omega
  by_cases hf : ∃ x, i = .fontAddress x
  · obtain ⟨x, rfl⟩ := hf
    have := (s.reg x).isLt
    rw [effect, State.setIndex_index, BitVec.toNat_ofNat, Nat.mod_eq_of_lt (by omega)]
    omega
  rw [effect_index s (not_exists.1 hl) (not_exists.1 hf)]
  exact hs

/-- A call pushes `PC + 2`, an even address of at most 4096 when PC is legal (R122); no other instruction writes a slot. -/
theorem effect_stack_good {s : State} (hpc : GoodPc s.pc.toNat)
    (hs : ∀ k : Fin 16, s.stack[k.val].toNat % 2 = 0 ∧ s.stack[k.val].toNat ≤ 4096) (i : Instr) (k : Fin 16) :
    (effect s i).stack[k.val].toNat % 2 = 0 ∧ (effect s i).stack[k.val].toNat ≤ 4096 := by
  by_cases hc : ∃ nnn, i = .call nnn
  · obtain ⟨nnn, rfl⟩ := hc
    rcases s.push_cases (a := BitVec.ofNat 16 s.pcNext) with ⟨_, hp⟩ | ⟨_, hp⟩
    · simpa [effect, hp] using hs k
    · simp only [effect, hp, Option.getD_some, Vector.getElem_set]
      split
      · rw [BitVec.toNat_ofNat, State.pcNext]
        omega
      · exact hs k
  · rw [effect_stack s (not_exists.1 hc)]
    exact hs k

/-! ### The invariant over one cycle -/

theorem State.Inv.sampleInputs {s : State} (h : s.Inv) : s.sampleInputs.Inv where
  mem_wf := by simpa using h.mem_wf
  pc_good := by simpa using h.pc_good
  index_le := by simpa using h.index_le
  stack_good := by simpa using h.stack_good
  clean := by simpa using h.clean

theorem State.Inv.setFault {s : State} (h : s.Inv) (r : FaultRecord) : (s.setFault r).Inv where
  mem_wf := h.mem_wf
  pc_good := h.pc_good
  index_le := h.index_le
  stack_good := h.stack_good
  clean := h.clean

/-- A committed cycle ends with the invariant, DIRTY being cleared by PresentIfDirty (R109). -/
theorem State.Inv.finish_effect {s : State} (h : s.Inv) (h0 : s.fault = none) {i : Instr} {n : Nat} (hn : GoodPc n) :
    ((effect s i).setPc n).finishCycle.Inv where
  mem_wf := by simpa using wf_effect_mem h.mem_wf i
  pc_good := by simpa [toNat_ofNat_of_good hn] using hn
  index_le := by simpa using effect_index_le h.index_le i
  stack_good := by simpa using effect_stack_good h.pc_good h.stack_good i
  clean := by rw [State.finishCycle_of_running (by simp [h0])]; simp

/-- Every step keeps the invariant: a halted core's, an aborted cycle's, which only records the fault, and a committed
one's. -/
theorem State.Inv.step {s t : State} (hs : s.Inv) (h : step s = .next t) : t.Inv := by
  by_cases h0 : s.fault = none
  · obtain ⟨w, -, ⟨-, rfl⟩ | ⟨_, _, _, -, -, rfl⟩ | ⟨i, -, -, hg, rfl⟩⟩ := step_cases h0 h
    · exact hs.sampleInputs.setFault _
    · exact hs.sampleInputs.setFault _
    · exact hs.sampleInputs.finish_effect (by simpa using h0) hg
  · rw [step_halted h0] at h
    exact Host.Outcome.next.inj h ▸ hs

/-- Settles O4, by the cases of what a step can answer. -/
theorem everyStepKeepsTheInvariant : Obligations.EveryStepKeepsTheInvariant := fun _ _ hs h => hs.step h

/-- Settles O2. -/
theorem resetMeetsTheInvariant : Obligations.ResetMeetsTheInvariant := State.reset_inv

/-- Settles O20: only a next PC that passed the PC check is committed, and the later stages leave PC alone. -/
theorem programCounterIsLegalOrFault : Obligations.ProgramCounterIsLegalOrFault := by
  intro s t h0 h ht
  obtain ⟨i, -, -, hg, rfl⟩ := step_committed h0 h ht
  simpa [toNat_ofNat_of_good hg] using hg

end Sys2Proof.Machine
end

section
/-! PROOFS. The step's inputs (10_state.md rules R28, R31, R33; 40_cycle_driver.md rule R112): a step reads the ones it is
given, and Execute reads KEYS, RAND and ST only where an instruction says so. -/

namespace Sys2Proof.Machine

/-! ### Sampling -/

theorem State.sampleInputs_offer (s : State) (keys : Keypad) (rand : Byte) :
    (s.offer keys rand).sampleInputs = { s with keys := keys, rand := rand } := rfl

/-- Settles O16: the offered input is the oldest pending one, so it is the one sampled before Execute. -/
theorem stepReadsTheInputsItIsGiven : Obligations.StepReadsTheInputsItIsGiven := by
  refine ⟨fun s w keys rand h0 hw => ?_, fun s hs => ?_⟩
  · rw [stepWith, step_fetched (s := s.offer keys rand) h0 hw, State.sampleInputs_offer]
  · simp [State.sampleInputs, hs]

/-! ### Changing KEYS, RAND and ST before Execute -/

/-- The state with KEYS, RAND and ST each changed by a function; `id` leaves one as it is. -/
def State.mapKeysRandSt (f : Keypad → Keypad) (g h : Byte → Byte) (s : State) : State :=
  { s with keys := f s.keys, rand := g s.rand, st := h s.st }

section Changed

variable (f : Keypad → Keypad) (g h : Byte → Byte) (s : State)

theorem State.pop_mapKeysRandSt : (s.mapKeysRandSt f g h).pop = s.pop.map fun p => (p.1, p.2.mapKeysRandSt f g h) := by
  rcases s.pop_cases with ⟨h0, hp⟩ | ⟨h0, hp⟩
  · rw [hp, State.pop_empty (s := s.mapKeysRandSt f g h) h0]; rfl
  · rw [hp, State.pop_some (s := s.mapKeysRandSt f g h) h0]; rfl

theorem State.push_mapKeysRandSt (a : Word) :
    (s.mapKeysRandSt f g h).push a = (s.push a).map (State.mapKeysRandSt f g h) := by
  rcases s.push_cases (a := a) with ⟨h0, hp⟩ | ⟨h0, hp⟩
  · rw [hp, State.push_full (s := s.mapKeysRandSt f g h) a h0]; rfl
  · rw [hp, State.push_room (s := s.mapKeysRandSt f g h) a h0]; rfl

theorem State.memWrite_mapKeysRandSt (a : Nat) (b : Byte) :
    (s.mapKeysRandSt f g h).memWrite a b = (s.memWrite a b).mapKeysRandSt f g h := by
  unfold State.memWrite
  split <;> rfl

theorem State.storeBcd_mapKeysRandSt (b : Byte) :
    (s.mapKeysRandSt f g h).storeBcd b = (s.storeBcd b).mapKeysRandSt f g h := by
  simp only [State.storeBcd, State.memWrite_mapKeysRandSt]
  rfl

theorem State.loadRegs_mapKeysRandSt (n : Nat) :
    (s.mapKeysRandSt f g h).loadRegs n = (s.loadRegs n).mapKeysRandSt f g h := by
  induction n with
  | zero => rfl
  | succ n ih => rw [State.loadRegs, ih]; rfl

/-! ### What each part of Execute reads of them -/

/-- No handler's own check reads them. -/
theorem State.handlerError_mapKeysRandSt (i : Instr) : (s.mapKeysRandSt f g h).handlerError i = s.handlerError i := by
  cases i <;> rfl

/-- The key skips alone read KEYS for their next PC. -/
theorem State.nextPc_mapKeysRandSt {i : Instr}
    (hk : ((∀ x, i ≠ .skipKeyPressed x) ∧ ∀ x, i ≠ .skipKeyNotPressed x) ∨ f = id) :
    (s.mapKeysRandSt f g h).nextPc i = s.nextPc i := by
  rcases hk with ⟨hp, hn⟩ | rfl
  · cases i with
    | skipKeyPressed x => exact absurd rfl (hp x)
    | skipKeyNotPressed x => exact absurd rfl (hn x)
    | _ => rfl
  · cases i <;> rfl

/-- Of a handler's writes, random-and's alone read RAND, and set-sound's alone overwrite ST. -/
theorem effect_mapKeysRandSt {i : Instr} (hr : (∀ x kk, i ≠ .randomAnd x kk) ∨ g = id)
    (hs : (∀ x, i ≠ .setSound x) ∨ h = id) : effect (s.mapKeysRandSt f g h) i = (effect s i).mapKeysRandSt f g h := by
  cases i with
  | ret =>
    rw [effect, effect, State.pop_mapKeysRandSt]
    cases s.pop <;> rfl
  | call nnn =>
    exact (congrArg (Option.getD · _) (State.push_mapKeysRandSt f g h s _)).trans (Option.getD_map ..)
  | bcdStore x => exact State.storeBcd_mapKeysRandSt f g h s _
  | regLoad x => exact State.loadRegs_mapKeysRandSt f g h s _
  | randomAnd x kk =>
    obtain rfl : g = id := hr.resolve_left fun hne => hne x kk rfl
    rfl
  | setSound x =>
    obtain rfl : h = id := hs.resolve_left fun hne => hne x rfl
    rfl
  | _ => rfl

/-- Execute commutes with a change of KEYS, RAND and ST that it does not read: the handler's check, the writes and the
next PC are the same, and neither a fault record nor a commit looks at them. -/
theorem exec_mapKeysRandSt {i : Instr} (hk : ((∀ x, i ≠ .skipKeyPressed x) ∧ ∀ x, i ≠ .skipKeyNotPressed x) ∨ f = id)
    (hr : (∀ x kk, i ≠ .randomAnd x kk) ∨ g = id) (hs : (∀ x, i ≠ .setSound x) ∨ h = id) :
    exec i (s.mapKeysRandSt f g h) = mapNext (State.mapKeysRandSt f g h) (exec i s) := by
  have he := State.handlerError_mapKeysRandSt f g h s i
  rw [exec_eq_answer, exec_eq_answer]
  cases hcheck : s.handlerError i with
  | some e => rw [answer_some hcheck, answer_some (he.trans hcheck)]; rfl
  | none =>
    rw [answer_none hcheck, answer_none (he.trans hcheck), effect_mapKeysRandSt f g h s hr hs,
      State.nextPc_mapKeysRandSt f g h s hk]
    by_cases hg : GoodPc (s.nextPc i)
    · rw [State.commit_good hg, State.commit_good hg]; rfl
    · rw [State.commit_bad hg, State.commit_bad hg]; rfl

end Changed

/-- set-sound's next state does not depend on what ST held (R204, R205). -/
theorem exec_setSound_of_st {s : State} (hg : GoodPc (s.pc.toNat + 2)) (x : Reg) (st : Byte) :
    exec (.setSound x) { s with st := st } = exec (.setSound x) s := by
  rw [exec_eq_answer, exec_eq_answer, answer_none rfl, answer_none rfl]
  exact (State.commit_good hg).trans (State.commit_good hg).symm

/-- Settles O26: each clause changes one of KEYS, RAND and ST and leaves the other two. -/
theorem inputsAreReadOnlyByTheirInstructions : Obligations.InputsAreReadOnlyByTheirInstructions := by
  refine fun i s => ⟨fun hp hn keys => ?_, fun hr rand => ?_, fun hs st => ?_,
    fun hg x st => exec_setSound_of_st hg x st⟩
  · exact exec_mapKeysRandSt (fun _ => keys) id id s (.inl ⟨hp, hn⟩) (.inr rfl) (.inr rfl)
  · exact exec_mapKeysRandSt id (fun _ => rand) id s (.inr rfl) (.inl hr) (.inr rfl)
  · exact exec_mapKeysRandSt id id (fun _ => st) s (.inr rfl) (.inr rfl) (.inl hs)

end Sys2Proof.Machine
end

section
/-! PROOFS. Memory as bytes and as words (20_memory.md): the canonical form is determined by what it reads as, a fetch
is big-endian, and the next fetch sees a placed word and the bytes a bcd-store wrote. -/

namespace Sys2Proof.Machine

/-! ### The canonical form is unique -/

/-- An address that does not read as the reset contents is not below the first listed one. -/
theorem Memory.le_of_byteAt_ne_resetByte {lo a : Nat} {m : Memory} (hm : Memory.wfFrom lo m = true)
    (ha : m.byteAt a ≠ Memory.resetByte a) : lo ≤ a :=
  Nat.le_of_not_lt fun h => ha (Memory.byteAt_below hm h)

/-- No address above 4095 is listed (R50). -/
theorem Memory.byteAt_of_ge {lo a : Nat} {m : Memory} (hm : Memory.wfFrom lo m = true) (ha : 4096 ≤ a) :
    m.byteAt a = Memory.resetByte a := by
  induction m generalizing lo with
  | nil => rfl
  | cons cell m ih =>
    obtain ⟨k, c⟩ := cell
    obtain ⟨-, hk, -, hm⟩ := (Memory.wfFrom_cons ..).1 hm
    rw [Memory.byteAt_cons, if_neg (by omega), ih hm]

/-- Canonical memories that read alike list the same cells: neither can list an address before the other does, and past
the first cell they still read alike. -/
theorem Memory.eq_of_byteAt_eq {m m' : Memory} (hm : m.wf = true) (hm' : m'.wf = true)
    (h : ∀ a, m.byteAt a = m'.byteAt a) : m = m' := by
  induction m generalizing m' with
  | nil => exact (Memory.eq_nil_of_byteAt_eq_resetByte hm' fun a => (h a).symm).symm
  | cons cell m ih =>
    cases m' with
    | nil => exact Memory.eq_nil_of_byteAt_eq_resetByte hm h
    | cons cell' m' =>
      obtain ⟨k, c⟩ := cell
      obtain ⟨k', c'⟩ := cell'
      obtain ⟨-, hk, hc, ht⟩ := (Memory.wfFrom_cons ..).1 hm
      obtain ⟨-, hk', hc', ht'⟩ := (Memory.wfFrom_cons ..).1 hm'
      have hread : Memory.byteAt ((k, c) :: m) k = c := if_pos rfl
      have hread' : Memory.byteAt ((k', c') :: m') k' = c' := if_pos rfl
      have hle : k' ≤ k := Memory.le_of_byteAt_ne_resetByte
        ((Memory.wfFrom_cons ..).2 ⟨le_rfl, hk', hc', ht'⟩) (by rwa [← h, hread])
      have hge : k ≤ k' := Memory.le_of_byteAt_ne_resetByte
        ((Memory.wfFrom_cons ..).2 ⟨le_rfl, hk, hc, ht⟩) (by rwa [h, hread'])
      obtain rfl : k = k' := Nat.le_antisymm hge hle
      obtain rfl : c = c' := hread.symm.trans ((h k).trans hread')
      have htail : ∀ a, Memory.byteAt m a = Memory.byteAt m' a := by
        intro a
        by_cases ha : a = k
        · rw [Memory.byteAt_below ht (by omega), Memory.byteAt_below ht' (by omega)]
        · simpa [Memory.byteAt_cons, ha] using h a
      rw [ih (Memory.wfFrom_mono ht (Nat.zero_le _)) (Memory.wfFrom_mono ht' (Nat.zero_le _)) htail]

/-- Settles O40: from 4096 on both read as the reset contents, so they read alike everywhere. -/
theorem canonicalMemoriesThatReadAlikeAreEqual : Obligations.CanonicalMemoriesThatReadAlikeAreEqual := by
  intro m m' hm hm' h
  refine Memory.eq_of_byteAt_eq hm hm' fun a => ?_
  by_cases ha : a < 4096
  · exact h a ha
  · rw [Memory.byteAt_of_ge hm (by omega), Memory.byteAt_of_ge hm' (by omega)]

/-! ### Words as bytes -/

/-- The byte at the lower address is worth 256 of the one after it (R53). -/
theorem toNat_append_bytes (hi lo : Byte) : (hi ++ lo).toNat = hi.toNat * 256 + lo.toNat := by
  rw [BitVec.toNat_append, ← Nat.shiftLeft_add_eq_or_of_lt lo.isLt, Nat.shiftLeft_eq]

theorem append_bytes_eq_ofNat (hi lo : Byte) : hi ++ lo = BitVec.ofNat 16 (hi.toNat * 256 + lo.toNat) := by
  rw [← toNat_append_bytes, BitVec.ofNat_toNat, BitVec.setWidth_eq]

theorem highByte_append_lowByte (w : Word) : highByte w ++ lowByte w = w := by
  have hw := w.isLt
  apply BitVec.eq_of_toNat_eq
  simp only [toNat_append_bytes, highByte, lowByte, BitVec.extractLsb'_toNat, Nat.shiftRight_eq_div_pow]
  omega

/-- Settles O13. -/
theorem fetchIsBigEndian : Obligations.FetchIsBigEndian := by
  refine ⟨fun s hpc => ⟨_, State.fetchWord_eq hpc, toNat_append_bytes ..⟩, fun hi lo rest w hw => ?_⟩
  obtain rfl : w = hi ++ lo := BitVec.eq_of_toNat_eq (hw.trans (toNat_append_bytes hi lo).symm)
  rfl

/-! ### A placed word -/

theorem State.withFetchWord_16 (s : State) (w : Nat) : s.withFetchWord 16 w = s.placeWord (BitVec.ofNat 16 w) := by
  rw [State.withFetchWord, tableWord_16]

theorem State.placeWord_eq_setMem (s : State) (w : Word) : s.placeWord w = s.setMem (s.placeWord w).mem := by
  unfold State.placeWord State.memWrite
  split <;> split <;> rfl

/-- Everything placing a word does to memory. -/
theorem State.byteAt_placeWord {s : State} (w : Word) (hm : s.mem.wf = true) (hpc : s.pc.toNat ≤ 4094) (a : Nat) :
    (s.placeWord w).mem.byteAt a =
      if a = s.pc.toNat + 1 then lowByte w else if a = s.pc.toNat then highByte w else s.mem.byteAt a := by
  rw [State.placeWord, State.byteAt_memWrite (State.wf_memWrite _ _ hm) _ (by omega),
    State.byteAt_memWrite hm _ (by omega)]

theorem State.fetchWord_placeWord {s : State} (w : Word) (hm : s.mem.wf = true) (hpc : s.pc.toNat ≤ 4094) :
    (s.placeWord w).fetchWord = some w := by
  rw [State.fetchWord_eq (by simpa using hpc)]
  simp [State.byteAt_placeWord w hm hpc, highByte_append_lowByte]

/-- Settles O14: placing a word is two byte writes at PC, which a big-endian fetch puts together again. -/
theorem placedWordIsFetched : Obligations.PlacedWordIsFetched := by
  intro s w hm hpc _
  rw [State.withFetchWord_16]
  refine ⟨State.fetchWord_placeWord _ hm hpc, fun a h0 h1 => ?_, State.placeWord_eq_setMem .., State.wf_placeWord _ hm⟩
  rw [State.byteAt_placeWord _ hm hpc, if_neg h1, if_neg h0]

/-! ### The bytes of a bcd-store -/

/-- The fetch of a state is that of its memory's bytes at PC as numbers (R53). -/
theorem State.fetchWord_eq_ofNat {s : State} (h : s.pc.toNat ≤ 4094) : s.fetchWord =
    some (BitVec.ofNat 16 ((s.mem.byteAt s.pc.toNat).toNat * 256 + (s.mem.byteAt (s.pc.toNat + 1)).toNat)) := by
  rw [State.fetchWord_eq h, append_bytes_eq_ofNat]

/-- What bcd-store's three writes do to memory, the digits as numbers (R162). -/
theorem State.toNat_byteAt_storeBcd {s : State} (hm : s.mem.wf = true) (b : Byte) (h : s.index.toNat + 2 < 4096)
    (a : Nat) : ((s.storeBcd b).mem.byteAt a).toNat =
      if a = s.index.toNat then b.toNat / 100 else if a = s.index.toNat + 1 then b.toNat / 10 % 10
      else if a = s.index.toNat + 2 then b.toNat % 10 else (s.mem.byteAt a).toNat := by
  rw [State.byteAt_storeBcd hm b h]
  simp [apply_ite BitVec.toNat]

/-- A committed bcd-store's own check passed, so its block lies inside memory (R162). -/
theorem State.index_add_two_lt_of_handlerError {s : State} {x : Reg} (h : s.handlerError (.bcdStore x) = none) :
    s.index.toNat + 2 < 4096 := by
  simp only [State.handlerError, ite_eq_right_iff, reduceCtorEq, imp_false] at h
  omega

/-- A committed bcd-store leaves PC 2 further, still legal, and its three writes in memory, whose block lies below 4096
(R105, R106, R162). -/
theorem step_bcdStore {x : Reg} {s t : State} (h0 : s.fault = none) (hi : s.nextInstr = some (.bcdStore x))
    (h : step s = .next t) (ht : t.fault = none) :
    GoodPc (s.pc.toNat + 2) ∧ t.pc.toNat = s.pc.toNat + 2 ∧ t.mem = (s.sampleInputs.storeBcd (s.reg x)).mem ∧
      s.index.toNat + 2 < 4096 := by
  obtain ⟨i, hi', he, hg, rfl⟩ := step_committed h0 h ht
  obtain rfl : .bcdStore x = i := Option.some.inj (hi.symm.trans hi')
  have hidx := State.index_add_two_lt_of_handlerError he
  have hpc := toNat_ofNat_of_good hg
  simp only [State.nextPc, State.sampleInputs_pc, State.sampleInputs_index] at hg hpc hidx
  exact ⟨hg, by simpa [State.nextPc] using hpc, by simp [effect], hidx⟩

/-- Settles O41: the committed cycle ends with bcd-store's memory and PC 2 further, and nothing stands between memory
and the fetch (R63). -/
theorem storedBytesAreFetchedNext : Obligations.StoredBytesAreFetchedNext := by
  intro x s t hm h0 hi h ht byte hbyte
  obtain ⟨⟨-, hle⟩, hpc, hmem, hidx⟩ := step_bcdStore h0 hi h ht
  have hread : ∀ a, (t.mem.byteAt a).toNat = byte a := by
    intro a
    rw [hmem, State.toNat_byteAt_storeBcd (by simpa using hm) _ (by simpa using hidx), hbyte]
    simp
  rw [State.fetchWord_eq_ofNat (by omega), hread, hread, hpc]

end Sys2Proof.Machine
end

section
/-! PROOFS. The decoder's fields, R76's masks and the encoder's words as numbers (30_encoding.md rules R70 to R72, R76,
R83): the facts about bits that the statements about decoder and encoder rest on. -/

namespace Sys2Proof.Machine

/-! ### The fields of a word -/

@[simp] theorem toNat_family (w : Word) : (family w).toNat = w.toNat / 4096 := by
  simp only [family, BitVec.extractLsb'_toNat, Nat.shiftRight_eq_div_pow]
  omega

@[simp] theorem val_fields_x (w : Word) : (fields w).x.val = w.toNat / 256 % 16 := by
  simp [fields, Nat.shiftRight_eq_div_pow]

@[simp] theorem val_fields_y (w : Word) : (fields w).y.val = w.toNat / 16 % 16 := by
  simp [fields, Nat.shiftRight_eq_div_pow]

@[simp] theorem val_fields_n (w : Word) : (fields w).n.val = w.toNat % 16 := by simp [fields]

@[simp] theorem toNat_fields_kk (w : Word) : (fields w).kk.toNat = w.toNat % 256 := by simp [fields]

@[simp] theorem toNat_fields_nnn (w : Word) : (fields w).nnn.toNat = w.toNat % 4096 := by simp [fields]

/-- Settles O7: a block of bits is a quotient by a power of two, reduced modulo another. -/
theorem fieldsAreTakenFromTheirBits : Obligations.FieldsAreTakenFromTheirBits := fun w =>
  ⟨toNat_family w, val_fields_x w, val_fields_y w, val_fields_n w, toNat_fields_kk w, toNat_fields_nnn w⟩

/-- Settles O12: fourteen fixed words, decoded. -/
theorem sampleWordsDecode : Obligations.SampleWordsDecode := by
  unfold Obligations.SampleWordsDecode
  decide

/-! ### A word under the masks of the opcode map -/

theorem toNat_highByte (w : Word) : (highByte w).toNat = w.toNat / 256 := by
  simp only [highByte, BitVec.extractLsb'_toNat, Nat.shiftRight_eq_div_pow]
  omega

theorem toNat_lowByte (w : Word) : (lowByte w).toNat = w.toNat % 256 := by simp [lowByte]

/-- A mask cuts a word byte by byte. -/
theorem toNat_and_bytes (w : Word) (hi lo : Byte) :
    (w &&& (hi ++ lo)).toNat = (highByte w &&& hi).toNat * 256 + (lowByte w &&& lo).toNat := by
  rw [← toNat_append_bytes, ← BitVec.and_append, highByte_append_lowByte]

theorem toNat_byte_and_F0 : ∀ b : Byte, (b &&& 0xF0#8).toNat = b.toNat / 16 * 16 := by decide

theorem toNat_byte_and_0F : ∀ b : Byte, (b &&& 0x0F#8).toNat = b.toNat % 16 := by decide

theorem toNat_and_F000 (w : Word) : (w &&& 0xF000#16).toNat = (family w).toNat * 4096 := by
  have h := toNat_and_bytes w 0xF0#8 0x00#8
  rw [toNat_byte_and_F0, toNat_highByte, BitVec.and_zero] at h
  exact h.trans (by rw [toNat_family, BitVec.toNat_ofNat]; omega)

theorem toNat_and_F00F (w : Word) : (w &&& 0xF00F#16).toNat = (family w).toNat * 4096 + (fields w).n.val := by
  have h := toNat_and_bytes w 0xF0#8 0x0F#8
  rw [toNat_byte_and_F0, toNat_highByte, toNat_byte_and_0F, toNat_lowByte] at h
  exact h.trans (by rw [toNat_family, val_fields_n]; omega)

theorem toNat_and_F0FF (w : Word) : (w &&& 0xF0FF#16).toNat = (family w).toNat * 4096 + (fields w).kk.toNat := by
  have h := toNat_and_bytes w 0xF0#8 0xFF#8
  have hlo : lowByte w &&& 0xFF#8 = lowByte w := BitVec.and_allOnes
  rw [toNat_byte_and_F0, toNat_highByte, hlo, toNat_lowByte] at h
  exact h.trans (by rw [toNat_family, toNat_fields_kk]; omega)

/-! ### The encoder's words, per form of R83 -/

/-- Fields add to a pattern that lies under a mask they have no bit of. -/
theorem toNat_or_of_mask {p a : Word} (m : Word) (hp : p &&& m = p) (ha : a &&& m = 0#16) :
    (p ||| a).toNat = p.toNat + a.toNat := by
  have h : p &&& a = 0#16 := by rw [← hp, BitVec.and_assoc, BitVec.and_comm m, ha, BitVec.and_zero]
  rw [← BitVec.add_eq_or_of_and_eq_zero _ _ h, BitVec.toNat_add_of_and_eq_zero h]

/-- A field in the lowest `k` bits adds to a word that has none there. -/
theorem toNat_or_of_lt {p a : Word} (k : Nat) (hp : p.toNat % 2 ^ k = 0) (ha : a.toNat < 2 ^ k) :
    (p ||| a).toNat = p.toNat + a.toNat := by
  obtain ⟨q, hq⟩ := Nat.dvd_of_mod_eq_zero hp
  rw [BitVec.toNat_or, hq, Nat.two_pow_add_eq_or_of_lt ha]

theorem toNat_atX : ∀ x : Reg, (atX x).toNat = x.val * 256 := by decide

theorem toNat_atX_or_atY : ∀ x y : Reg, (atX x ||| atY y).toNat = x.val * 256 + y.val * 16 := by decide

theorem toNat_or_nnn {p : Word} (hp : p.toNat % 4096 = 0) (nnn : Addr) :
    (p ||| nnn.setWidth 16).toNat = p.toNat + nnn.toNat := by
  have hn : (nnn.setWidth 16).toNat = nnn.toNat := BitVec.toNat_setWidth_of_le (by omega)
  rw [toNat_or_of_lt 12 hp (hn ▸ nnn.isLt), hn]

theorem toNat_or_atX {p : Word} (hp : p &&& 0xF0FF#16 = p) (x : Reg) :
    (p ||| atX x).toNat = p.toNat + x.val * 256 := by
  rw [toNat_or_of_mask _ hp (atX_and_F0FF x), toNat_atX]

theorem toNat_or_atX_or_atY {p : Word} (hp : p &&& 0xF00F#16 = p) (x y : Reg) :
    (p ||| atX x ||| atY y).toNat = p.toNat + x.val * 256 + y.val * 16 := by
  have ha : (atX x ||| atY y) &&& 0xF00F#16 = 0#16 := by
    simp [BitVec.and_or_distrib_right, atX_and_F00F, atY_and_F00F]
  rw [BitVec.or_assoc, toNat_or_of_mask _ hp ha, toNat_atX_or_atY, Nat.add_assoc]

theorem toNat_or_atX_or_kk {p : Word} (hp : p &&& 0xF0FF#16 = p) (h0 : p.toNat % 256 = 0) (x : Reg) (kk : Byte) :
    (p ||| atX x ||| kk.setWidth 16).toNat = p.toNat + x.val * 256 + kk.toNat := by
  have hk : (kk.setWidth 16).toNat = kk.toNat := BitVec.toNat_setWidth_of_le (by omega)
  have hx := toNat_or_atX hp x
  rw [toNat_or_of_lt 8 (by omega) (hk ▸ kk.isLt), hx, hk]

/-! ### The encoder's words -/

@[simp] theorem toNat_encode_clearScreen : (encode .clearScreen).toNat = 0x00E0 := rfl

@[simp] theorem toNat_encode_ret : (encode .ret).toNat = 0x00EE := rfl

@[simp] theorem toNat_encode_jump (nnn : Addr) : (encode (.jump nnn)).toNat = 0x1000 + nnn.toNat :=
  toNat_or_nnn (by decide) nnn

@[simp] theorem toNat_encode_call (nnn : Addr) : (encode (.call nnn)).toNat = 0x2000 + nnn.toNat :=
  toNat_or_nnn (by decide) nnn

@[simp] theorem toNat_encode_skipEqImm (x : Reg) (kk : Byte) :
    (encode (.skipEqImm x kk)).toNat = 0x3000 + x.val * 256 + kk.toNat :=
  toNat_or_atX_or_kk (by decide) rfl x kk

@[simp] theorem toNat_encode_skipNeImm (x : Reg) (kk : Byte) :
    (encode (.skipNeImm x kk)).toNat = 0x4000 + x.val * 256 + kk.toNat :=
  toNat_or_atX_or_kk (by decide) rfl x kk

@[simp] theorem toNat_encode_loadImm (x : Reg) (kk : Byte) :
    (encode (.loadImm x kk)).toNat = 0x6000 + x.val * 256 + kk.toNat :=
  toNat_or_atX_or_kk (by decide) rfl x kk

@[simp] theorem toNat_encode_addImm (x : Reg) (kk : Byte) :
    (encode (.addImm x kk)).toNat = 0x7000 + x.val * 256 + kk.toNat :=
  toNat_or_atX_or_kk (by decide) rfl x kk

@[simp] theorem toNat_encode_copy (x y : Reg) : (encode (.copy x y)).toNat = 0x8000 + x.val * 256 + y.val * 16 :=
  toNat_or_atX_or_atY (by decide) x y

@[simp] theorem toNat_encode_and (x y : Reg) : (encode (.and x y)).toNat = 0x8002 + x.val * 256 + y.val * 16 :=
  toNat_or_atX_or_atY (by decide) x y

@[simp] theorem toNat_encode_addCarry (x y : Reg) :
    (encode (.addCarry x y)).toNat = 0x8004 + x.val * 256 + y.val * 16 :=
  toNat_or_atX_or_atY (by decide) x y

@[simp] theorem toNat_encode_subFlag (x y : Reg) :
    (encode (.subFlag x y)).toNat = 0x8005 + x.val * 256 + y.val * 16 :=
  toNat_or_atX_or_atY (by decide) x y

@[simp] theorem toNat_encode_loadIndex (nnn : Addr) : (encode (.loadIndex nnn)).toNat = 0xA000 + nnn.toNat :=
  toNat_or_nnn (by decide) nnn

@[simp] theorem toNat_encode_randomAnd (x : Reg) (kk : Byte) :
    (encode (.randomAnd x kk)).toNat = 0xC000 + x.val * 256 + kk.toNat :=
  toNat_or_atX_or_kk (by decide) rfl x kk

@[simp] theorem toNat_encode_draw (x y : Reg) (n : Fin 16) :
    (encode (.draw x y n)).toNat = 0xD000 + x.val * 256 + y.val * 16 + n.val := by
  have hxy : (0xD000#16 ||| atX x ||| atY y).toNat = 0xD000 + x.val * 256 + y.val * 16 :=
    toNat_or_atX_or_atY (by decide) x y
  have hn : (BitVec.ofNat 16 n.val).toNat = n.val := Nat.mod_eq_of_lt (by omega)
  rw [encode, toNat_or_of_lt 4 (by omega) (by omega), hxy, hn]

@[simp] theorem toNat_encode_skipKeyPressed (x : Reg) : (encode (.skipKeyPressed x)).toNat = 0xE09E + x.val * 256 :=
  toNat_or_atX (by decide) x

@[simp] theorem toNat_encode_skipKeyNotPressed (x : Reg) :
    (encode (.skipKeyNotPressed x)).toNat = 0xE0A1 + x.val * 256 :=
  toNat_or_atX (by decide) x

@[simp] theorem toNat_encode_getDelay (x : Reg) : (encode (.getDelay x)).toNat = 0xF007 + x.val * 256 :=
  toNat_or_atX (by decide) x

@[simp] theorem toNat_encode_setDelay (x : Reg) : (encode (.setDelay x)).toNat = 0xF015 + x.val * 256 :=
  toNat_or_atX (by decide) x

@[simp] theorem toNat_encode_setSound (x : Reg) : (encode (.setSound x)).toNat = 0xF018 + x.val * 256 :=
  toNat_or_atX (by decide) x

@[simp] theorem toNat_encode_fontAddress (x : Reg) : (encode (.fontAddress x)).toNat = 0xF029 + x.val * 256 :=
  toNat_or_atX (by decide) x

@[simp] theorem toNat_encode_bcdStore (x : Reg) : (encode (.bcdStore x)).toNat = 0xF033 + x.val * 256 :=
  toNat_or_atX (by decide) x

@[simp] theorem toNat_encode_regLoad (x : Reg) : (encode (.regLoad x)).toNat = 0xF065 + x.val * 256 :=
  toNat_or_atX (by decide) x

end Sys2Proof.Machine
end

section
/-! PROOFS. The decoder's case analysis against R76's opcode map (30_encoding.md rules R76, R77, R79): a word has a kind
exactly when it lies in that kind's row, and which words lie in none. -/

namespace Sys2Proof.Machine

/-! ### What the kind of a word depends on -/

/-- The kind depends on the family, in family 8 also on the low nibble, in families 0, E and F also on the low byte
(R74). -/
theorem kindOf_congr {w p : Word} (hf : w.toNat / 4096 = p.toNat / 4096)
    (hn : p.toNat / 4096 = 8 → w.toNat % 16 = p.toNat % 16)
    (hkk : p.toNat / 4096 ∈ [0x0, 0xE, 0xF] → w.toNat % 256 = p.toNat % 256) : kindOf w = kindOf p := by
  rw [← val_fields_n, ← val_fields_n, Fin.val_inj] at hn
  rw [← toNat_fields_kk, ← toNat_fields_kk, BitVec.toNat_inj] at hkk
  rw [kindOf, kindOf, toNat_family, toNat_family, hf]
  have hlt : p.toNat / 4096 < 16 := Nat.div_lt_of_lt_mul p.isLt
  generalize p.toNat / 4096 = f at hlt hn hkk
  interval_cases f <;> simp_all

/-! ### The rows -/

theorem covers_iff (r : OpcodeRow) (w : Word) : r.covers w = true ↔ w &&& r.mask = r.pattern := by
  simp [OpcodeRow.covers]

theorem covers_ofNat {w m : Word} {n : Nat} (k : Kind) (h : (w &&& m).toNat = n) :
    OpcodeRow.covers ⟨k, BitVec.ofNat 16 n, m⟩ w = true := by
  simp [covers_iff, ← h]

theorem kindOf_pattern : ∀ r ∈ opcodeMap, kindOf r.pattern = some r.kind := by decide

/-- A row's mask takes in what the kind of its family depends on. -/
theorem mask_cases : ∀ r ∈ opcodeMap, r.mask = 0xF0FF#16 ∨ (r.mask = 0xF00F#16 ∧ r.pattern.toNat / 4096 = 8) ∨
    (r.mask = 0xF000#16 ∧ r.pattern.toNat / 4096 ≠ 8 ∧ r.pattern.toNat / 4096 ∉ [0x0, 0xE, 0xF]) := by decide

/-- A word and the pattern of its row agree in all that the kind depends on. -/
theorem kindOf_of_covers {r : OpcodeRow} {w : Word} (hr : r ∈ opcodeMap) (hc : r.covers w = true) :
    kindOf w = some r.kind := by
  rw [covers_iff] at hc
  rw [← kindOf_pattern r hr]
  rcases mask_cases r hr with hm | ⟨hm, h8⟩ | ⟨hm, h8, hb⟩ <;> rw [hm] at hc
  · have hp := hc ▸ toNat_and_F0FF w
    rw [toNat_family, toNat_fields_kk] at hp
    exact kindOf_congr (by omega) (fun _ => by omega) (fun _ => by omega)
  · have hp := hc ▸ toNat_and_F00F w
    rw [toNat_family, val_fields_n] at hp
    exact kindOf_congr (by omega) (fun _ => by omega) (by simp [h8])
  · have hp := hc ▸ toNat_and_F000 w
    rw [toNat_family] at hp
    exact kindOf_congr (by omega) (absurd · h8) (absurd · hb)

theorem row_of_kindFamily0 : ∀ kk : Byte, ∀ k ∈ kindFamily0 kk,
    ⟨k, BitVec.ofNat 16 (0x0 * 4096 + kk.toNat), 0xF0FF#16⟩ ∈ opcodeMap := by decide

theorem row_of_kindFamily8 : ∀ n : Fin 16, ∀ k ∈ kindFamily8 n,
    ⟨k, BitVec.ofNat 16 (0x8 * 4096 + n.val), 0xF00F#16⟩ ∈ opcodeMap := by decide

theorem row_of_kindFamilyE : ∀ kk : Byte, ∀ k ∈ kindFamilyE kk,
    ⟨k, BitVec.ofNat 16 (0xE * 4096 + kk.toNat), 0xF0FF#16⟩ ∈ opcodeMap := by decide

theorem row_of_kindFamilyF : ∀ kk : Byte, ∀ k ∈ kindFamilyF kk,
    ⟨k, BitVec.ofNat 16 (0xF * 4096 + kk.toNat), 0xF0FF#16⟩ ∈ opcodeMap := by decide

/-- Each branch of the case analysis answers the kind of a row that covers the word. -/
theorem exists_row_of_kindOf {w : Word} {k : Kind} (h : kindOf w = some k) :
    ∃ r ∈ opcodeMap, r.kind = k ∧ r.covers w = true := by
  unfold kindOf at h
  split at h
  case h_1 hf => exact ⟨_, row_of_kindFamily0 _ _ h, rfl, covers_ofNat _ (hf ▸ toNat_and_F0FF w)⟩
  case h_8 hf => exact ⟨_, row_of_kindFamily8 _ _ h, rfl, covers_ofNat _ (hf ▸ toNat_and_F00F w)⟩
  case h_12 hf => exact ⟨_, row_of_kindFamilyE _ _ h, rfl, covers_ofNat _ (hf ▸ toNat_and_F0FF w)⟩
  case h_13 hf => exact ⟨_, row_of_kindFamilyF _ _ h, rfl, covers_ofNat _ (hf ▸ toNat_and_F0FF w)⟩
  case h_14 => cases h
  all_goals
    rename_i hf
    obtain rfl := Option.some.inj h
    exact ⟨_, by decide, rfl, covers_ofNat _ (hf ▸ toNat_and_F000 w)⟩

/-- Each kind has one row. -/
theorem row_unique : ∀ r ∈ opcodeMap, ∀ r' ∈ opcodeMap, r.kind = r'.kind → r = r' := by decide

/-- Settles O8: a covering row gives the word its kind, so two covering rows have one kind and are one row; and a word
with a kind has a covering row. -/
theorem opcodeMapGivesTheKind : Obligations.OpcodeMapGivesTheKind := by
  refine fun w => ⟨?_, fun r hr r' hr' hc hc' => row_unique r hr r' hr' <|
    Option.some.inj ((kindOf_of_covers hr hc).symm.trans (kindOf_of_covers hr' hc'))⟩
  cases hfind : opcodeMap.find? fun r => r.covers w with
  | some r => exact kindOf_of_covers (List.mem_of_find?_eq_some hfind) (List.find?_some hfind :)
  | none =>
    refine Option.eq_none_iff_forall_ne_some.2 fun k hk => ?_
    obtain ⟨r, hr, -, hc⟩ := exists_row_of_kindOf hk
    exact List.find?_eq_none.1 hfind r hr hc

/-! ### The unsupported words -/

theorem kindFamily0_eq_none_iff (kk : Byte) : kindFamily0 kk = none ↔ kk.toNat ≠ 0xE0 ∧ kk.toNat ≠ 0xEE := by
  simp [kindFamily0, ← BitVec.toNat_inj, ite_eq_iff]

theorem kindFamily8_eq_none_iff : ∀ n : Fin 16, kindFamily8 n = none ↔
    n.val ∈ [0x1, 0x3, 0x6, 0x7, 0x8, 0x9, 0xA, 0xB, 0xC, 0xD, 0xE, 0xF] := by decide

theorem kindFamilyE_eq_none_iff (kk : Byte) : kindFamilyE kk = none ↔ kk.toNat ≠ 0x9E ∧ kk.toNat ≠ 0xA1 := by
  simp [kindFamilyE, ← BitVec.toNat_inj, ite_eq_iff]

theorem kindFamilyF_eq_none_iff (kk : Byte) :
    kindFamilyF kk = none ↔ kk.toNat ∉ [0x07, 0x15, 0x18, 0x29, 0x33, 0x65] := by
  simp [kindFamilyF, ← BitVec.toNat_inj, ite_eq_iff]

theorem decode_eq_none_iff (w : Word) : decode w = none ↔ kindOf w = none := Option.map_eq_none_iff

/-- Executing an unsupported word takes UnknownOpcode (R104, R221). -/
theorem step_unsupported {s : State} {w : Word} (h0 : s.fault = none) (hw : s.fetchWord = some w)
    (hd : decode w = none) : step s = .next (s.sampleInputs.setFault (.unknownOpcode w s.pc)) := by
  rw [step_fetched h0 hw, runWord, hd, ← s.sampleInputs_pc]
  rfl

/-- Settles O9: R79's list is read off the case analysis family by family; the driver raises where decode gives nothing.
-/
theorem unsupportedWordsRaiseUnknownOpcode : Obligations.UnsupportedWordsRaiseUnknownOpcode := by
  refine ⟨fun w => ?_, fun s w h0 hw hd => ⟨_, step_unsupported h0 hw hd, rfl⟩⟩
  rw [decode_eq_none_iff, ← toNat_family, ← val_fields_n, ← toNat_fields_kk, ← kindFamily0_eq_none_iff,
    ← kindFamily8_eq_none_iff, ← kindFamilyE_eq_none_iff, ← kindFamilyF_eq_none_iff, kindOf]
  have hf : (family w).toNat < 16 := (family w).isLt
  generalize (family w).toNat = f at hf
  interval_cases f <;> simp

end Sys2Proof.Machine
end

section
/-! PROOFS. Decoder and encoder against each other (30_encoding.md rules R72, R75, R81, R83). -/

namespace Sys2Proof.Laws.EncodesInRow

theorem every : ∀ i : Instr, Statement i
  | .clearScreen => clearScreen
  | .ret => ret
  | .jump nnn => jump nnn
  | .call nnn => call nnn
  | .skipEqImm x kk => skipEqImm x kk
  | .skipNeImm x kk => skipNeImm x kk
  | .loadImm x kk => loadImm x kk
  | .addImm x kk => addImm x kk
  | .copy x y => copy x y
  | .and x y => and x y
  | .addCarry x y => addCarry x y
  | .subFlag x y => subFlag x y
  | .loadIndex nnn => loadIndex nnn
  | .randomAnd x kk => randomAnd x kk
  | .draw x y n => draw x y n
  | .skipKeyPressed x => skipKeyPressed x
  | .skipKeyNotPressed x => skipKeyNotPressed x
  | .getDelay x => getDelay x
  | .setDelay x => setDelay x
  | .setSound x => setSound x
  | .fontAddress x => fontAddress x
  | .bcdStore x => bcdStore x
  | .regLoad x => regLoad x

end Sys2Proof.Laws.EncodesInRow

namespace Sys2Proof.Machine

/-! ### Decode of encode -/

theorem wellFormed_eq_true (i : Instr) : i.wellFormed = true := by
  cases i with
  | jump nnn | call nnn | loadIndex nnn =>
    simp [Instr.wellFormed, Instr.operands, RawOperands.fit]
    exact decide_eq_true nnn.isLt
  | skipEqImm x kk | skipNeImm x kk | loadImm x kk | addImm x kk | randomAnd x kk =>
    simp [Instr.wellFormed, Instr.operands, RawOperands.fit]
    exact decide_eq_true kk.isLt
  | _ => simp [Instr.wellFormed, Instr.operands, RawOperands.fit]

theorem kindOf_encode (i : Instr) : kindOf (encode i) = some i.kind := by
  obtain ⟨r, hr, hk, hc⟩ := Laws.EncodesInRow.every i
  rw [kindOf_of_covers hr hc, hk]

/-- The fields of an encoding are the instruction's operands, each at its place in the sum. -/
theorem kind_instr_fields_encode (i : Instr) : i.kind.instr (fields (encode i)) = i := by
  cases i with
  | clearScreen | ret => rfl
  | _ =>
    simp [Instr.kind, Kind.instr, ← BitVec.toNat_inj, Fin.ext_iff]
    omega

theorem decode_encode (i : Instr) : decode (encode i) = some i := by
  rw [decode, kindOf_encode, Option.map_some, kind_instr_fields_encode]

/-- Settles O10: the encoding lies in its kind's row, which gives the kind back, and its fields are the operands. -/
theorem decodeOfEncodeIsTheInstruction : Obligations.DecodeOfEncodeIsTheInstruction := fun i =>
  ⟨wellFormed_eq_true i, decode_encode i⟩

/-! ### Encode of decode -/

/-- A word in a row is the row's pattern and its own fields put together, but for the bits clear-screen and return
ignore (R81). -/
theorem encode_instr_fields {w : Word} {r : OpcodeRow} (hr : r ∈ opcodeMap) (hc : r.covers w = true) :
    encode (r.kind.instr (fields w)) =
      if r.kind.instr (fields w) = .clearScreen ∨ r.kind.instr (fields w) = .ret then w &&& 0xF0FF#16 else w := by
  rw [covers_iff] at hc
  fin_cases hr
  iterate 2 exact hc.symm -- clear-screen and return: the pattern is the whole encoding
  all_goals -- the other rows: pattern and fields add up to the word
    rw [← BitVec.toNat_inj] at hc ⊢
    simp only [toNat_and_F000, toNat_and_F00F, toNat_and_F0FF, toNat_family, val_fields_n, toNat_fields_kk,
      BitVec.toNat_ofNat] at hc
    simp [Kind.instr]
    omega

theorem encode_of_decode {w : Word} {i : Instr} (h : decode w = some i) :
    encode i = if i = .clearScreen ∨ i = .ret then w &&& 0xF0FF#16 else w := by
  obtain ⟨k, hk, rfl⟩ := Option.map_eq_some_iff.1 h
  obtain ⟨r, hr, rfl, hc⟩ := exists_row_of_kindOf hk
  exact encode_instr_fields hr hc

/-- Settles O11: the encoder's formulas hold as sums, and a supported word is rebuilt from its row and fields. -/
theorem encoderFollowsTheMap : Obligations.EncoderFollowsTheMap :=
  ⟨fun x y n kk nnn => by simp, fun _ i h => ⟨decode_encode i, encode_of_decode h⟩⟩

end Sys2Proof.Machine
end

section
/-! PROOFS. The cycle driver (40_cycle_driver.md): runs of any length from an invariant state, the halted core (R101), the
stages of one cycle (R111), what a cycle that raises keeps (R107), and when the framebuffer is presented (R109). -/

namespace Sys2Proof.Machine

/-! ### Runs of the core -/

theorem run_succ_of_step {s t : State} (h : step s = .next t) (k : Nat) :
    Host.Core.run core (k + 1) s = Host.Core.run core k t := by
  change core.step s = .next t at h
  simp only [Host.Core.run, h]

/-- A legal PC is fetched from inside memory, and Execute always answers: a step from the invariant never stops. -/
theorem step_answers_next_of_inv {s : State} (hs : s.Inv) : ∃ t, step s = .next t := by
  by_cases h0 : s.fault = none
  · have hw := State.fetchWord_eq hs.pc_good.2
    generalize s.mem.byteAt s.pc.toNat ++ s.mem.byteAt (s.pc.toNat + 1) = w at hw
    rw [step_fetched h0 hw]
    cases hd : decode w with
    | none => exact ⟨_, by rw [runWord, hd]; rfl⟩
    | some i =>
      obtain ⟨u, hu⟩ := exec_answers_next i s.sampleInputs
      exact ⟨u.finishCycle, by rw [runWord_decoded hd, hu]; rfl⟩
  · exact ⟨s, step_halted h0⟩

/-- Settles O5, by induction on the number of steps: each answers a next state, which meets the invariant again. -/
theorem invariantStatesRunForever : Obligations.InvariantStatesRunForever := by
  intro k
  induction k with
  | zero => exact fun s hs => ⟨s, rfl, hs⟩
  | succ k ih =>
    intro s hs
    obtain ⟨u, hu⟩ := step_answers_next_of_inv hs
    rw [run_succ_of_step hu]
    exact ih u (hs.step hu)

theorem run_halted {s : State} (h : s.fault ≠ none) (k : Nat) : Host.Core.run core k s = .next s := by
  induction k with
  | zero => rfl
  | succ k ih => rw [run_succ_of_step (step_halted h), ih]

/-- Settles O17: a halted core's step answers the state itself, and offering inputs leaves FAULT set. -/
theorem haltedCoreHasNoStep : Obligations.HaltedCoreHasNoStep := fun s h =>
  ⟨run_halted h, fun keys rand => step_halted (s := s.offer keys rand) h⟩

/-! ### The stages of a cycle -/

/-- Settles O15: the fetched word decodes, and FAULT alone decides whether the stages after Execute run. -/
theorem stepRunsTheDecodedInstruction : Obligations.StepRunsTheDecodedInstruction := by
  refine ⟨fun s w i h0 hw hd => ?_, fun t ht => ?_, fun t ht => ?_⟩
  · rw [step_fetched h0 hw, runWord_decoded hd]
  · rw [finishResult, State.finishCycle_of_running ht]
  · rw [finishResult, State.finishCycle_of_fault ht]

/-! ### A cycle that raises -/

/-- Sampling writes the step's inputs and nothing else (R112). -/
theorem State.sampleInputs_frame (s : State) :
    s.sampleInputs = { s with keys := s.sampleInputs.keys, rand := s.sampleInputs.rand, inputs := s.sampleInputs.inputs,
                              freeCount := s.sampleInputs.freeCount } := by
  rcases s.sampleInputs_cases with ⟨_, _, -, he⟩ | ⟨-, he⟩ <;> rw [he]

/-- A cycle that raises only samples its inputs and records the instruction at PC (R107, R225), whether the word is
unsupported or its instruction has a first error. -/
theorem step_raised {s t : State} (h0 : s.fault = none) (h : step s = .next t) (ht : t.fault ≠ none) :
    ∃ w r, s.fetchWord = some w ∧ r.opcode = w ∧ r.address = s.pc ∧ t = s.sampleInputs.setFault r := by
  obtain ⟨w, hw, ⟨-, rfl⟩ | ⟨_, _, _, -, -, rfl⟩ | ⟨i, -, -, -, rfl⟩⟩ := step_cases h0 h
  · exact ⟨w, _, hw, rfl, rfl, rfl⟩
  · exact ⟨w, _, hw, rfl, rfl, rfl⟩
  · exact absurd (by simp [h0]) ht

/-- Settles O18: the aborted cycle is the sampled state with the record, and a state with FAULT set has no step. -/
theorem faultEntryIsPreciseAndKeepsTheState : Obligations.FaultEntryIsPreciseAndKeepsTheState := by
  intro s t w h0 hw h ht
  obtain ⟨w', r, hw', hop, haddr, rfl⟩ := step_raised h0 h ht
  obtain rfl : w = w' := Option.some.inj (hw.symm.trans hw')
  refine ⟨⟨r, rfl, hop, haddr⟩, ?_, step_halted ht⟩
  conv_lhs => rw [State.sampleInputs_frame]
  rfl

/-! ### Presenting -/

/-- No handler presents. -/
@[simp] theorem effect_presents (s : State) (i : Instr) : (effect s i).presents = s.presents := by
  cases i with
  | ret => rw [effect_ret_frame]
  | call nnn => rw [effect_call_frame]
  | _ => simp [effect]

/-- DIRTY is set by clear-screen and draw and cleared by no handler (R30, R185). -/
theorem effect_dirty_eq_true (s : State) (i : Instr) :
    (effect s i).dirty = true ↔ s.dirty = true ∨ i = .clearScreen ∨ ∃ x y n, i = .draw x y n := by
  cases i with
  | ret => rw [effect_ret_frame]; simp
  | call nnn => rw [effect_call_frame]; simp
  | _ => simp [effect]

/-- Settles O24: a committed cycle presents by the DIRTY its handler leaves, and the tick before it touches neither FB
nor DIRTY. -/
theorem presentsExactlyWhenDirty : Obligations.PresentsExactlyWhenDirty := by
  refine fun s t h0 h => ⟨fun ht => ?_, fun ht => ?_⟩
  · obtain ⟨_, _, -, -, -, rfl⟩ := step_raised h0 h ht
    simp
  · obtain ⟨i, hi, -, -, rfl⟩ := step_committed h0 h ht
    have hd := effect_dirty_eq_true s.sampleInputs i
    rw [State.sampleInputs_dirty] at hd
    refine ⟨i, hi, State.presentIfDirty_dirty _, fun hp => ?_, fun hs hc hdraw => ?_⟩
    · simp [State.presentIfDirty_presents, hd.2 hp]
    · have hclean : ¬(effect s.sampleInputs i).dirty = true := by
        rw [hd]
        simp [hs, hc, hdraw]
      simp [State.presentIfDirty_presents, hclean]

end Sys2Proof.Machine
end

section
/-! PROOFS. Execute's errors: the first error or the next PC decides what it answers (40_cycle_driver.md rule R105,
60_exceptions.md rules R222 to R224), and the PC check fails exactly in the cases R106 lists. -/

namespace Sys2Proof.Machine

/-! ### The first error -/

theorem State.firstError_eq_none {s : State} {i : Instr} :
    s.firstError i = none ↔ s.handlerError i = none ∧ GoodPc (s.nextPc i) := by
  rw [State.firstError]
  cases s.handlerError i <;> simp

/-- A first error of the PC check is the illegal next PC of an instruction whose own check passes. -/
theorem State.firstError_eq_programCounter {s : State} {i : Instr} {value : Nat} :
    s.firstError i = some (.programCounter, value) ↔
      s.handlerError i = none ∧ ¬GoodPc (s.nextPc i) ∧ s.nextPc i = value := by
  cases he : s.handlerError i with
  | none =>
    by_cases hg : GoodPc (s.nextPc i)
    · simp [State.firstError_eq_none.2 ⟨he, hg⟩, hg]
    · simp [State.firstError_of_handler he hg, hg]
  | some e =>
    have hne : e ≠ (.programCounter, value) := fun h => s.handlerError_ne_programCounter i value (h ▸ he)
    simp [State.firstError, he, hne]

/-- An instruction without an error commits its writes and its next PC. -/
theorem exec_of_no_error {s : State} {i : Instr} (h : s.firstError i = none) :
    exec i s = .next ((effect s i).setPc (s.nextPc i)) := by
  obtain ⟨he, hg⟩ := State.firstError_eq_none.1 h
  rw [exec_eq_answer, answer_none he, State.commit_good hg]

/-- Settles O19, by whether the instruction has a first error. -/
theorem firstErrorOrNextPcDecides : Obligations.FirstErrorOrNextPcDecides := by
  refine fun i s => ⟨fun kind value h => ⟨_, exec_of_firstError h, rfl⟩, fun h => ⟨_, exec_of_no_error h, ?_, by simp⟩⟩
  simpa using toNat_ofNat_of_good (State.firstError_eq_none.1 h).2

/-! ### Where the PC check fails -/

/-- The conditional skips (42_skips.md). -/
def IsSkip (i : Instr) : Prop :=
  (∃ x kk, i = .skipEqImm x kk ∨ i = .skipNeImm x kk) ∨ ∃ x, i = .skipKeyPressed x ∨ i = .skipKeyNotPressed x

/-- An instruction that transfers control to an address of its own: jump, call, return (41_control_flow.md). -/
def IsTransfer (i : Instr) : Prop := (∃ nnn, i = .jump nnn ∨ i = .call nnn) ∨ i = .ret

theorem State.nextPc_of_jump_or_call (s : State) {i : Instr} {nnn : Addr} (h : i = .jump nnn ∨ i = .call nnn) :
    s.nextPc i = nnn.toNat := by
  rcases h with rfl | rfl <;> rfl

theorem State.nextPc_ret (s : State) : s.nextPc .ret = s.topOfStack := rfl

/-- Any instruction but a jump, call or return goes on to the next word, or, a skip, past it (R105). -/
theorem State.nextPc_of_not_transfer (s : State) {i : Instr} (h : ¬IsTransfer i) :
    s.nextPc i = s.pc.toNat + 2 ∨ (s.nextPc i = s.pc.toNat + 4 ∧ IsSkip i) := by
  cases i with
  | jump nnn => exact absurd (.inl ⟨nnn, .inl rfl⟩) h
  | call nnn => exact absurd (.inl ⟨nnn, .inr rfl⟩) h
  | ret => exact absurd (.inr rfl) h
  | skipEqImm x kk | skipNeImm x kk | skipKeyPressed x | skipKeyNotPressed x =>
    rw [State.nextPc]
    split <;> simp [IsSkip]
  | _ => exact .inl rfl

/-- A return address on the stack is even and at most 4096 (R27). -/
theorem State.Inv.topOfStack_good {s : State} (hs : s.Inv) (h : 0 < s.sp.val) :
    s.topOfStack % 2 = 0 ∧ s.topOfStack ≤ 4096 := by
  rw [State.topOfStack_eq h]
  exact hs.stack_good ⟨s.sp.val - 1, by omega⟩

theorem State.sp_pos_of_handlerError_ret {s : State} (h : s.handlerError .ret = none) : 0 < s.sp.val := by
  simpa [State.handlerError, Nat.pos_iff_ne_zero] using h

/-- From the invariant, a next PC is illegal only in R106's cases. -/
theorem State.Inv.not_goodPc_cases {s : State} (hs : s.Inv) {i : Instr} (he : s.handlerError i = none)
    (hg : ¬GoodPc (s.nextPc i)) :
    (∃ nnn : Addr, (i = .jump nnn ∨ i = .call nnn) ∧ s.nextPc i = nnn.toNat ∧ nnn.toNat % 2 = 1) ∨
    (i = .ret ∧ s.nextPc i = 4096) ∨
    (s.pc.toNat = 4094 ∧ s.nextPc i = 4096) ∨
    (s.nextPc i = s.pc.toNat + 4 ∧ (s.pc.toNat = 4092 ∨ s.pc.toNat = 4094) ∧ IsSkip i) := by
  have hpc := hs.pc_good
  by_cases htr : IsTransfer i
  · rcases htr with ⟨nnn, hi⟩ | rfl
    · have hn := s.nextPc_of_jump_or_call hi
      have hlt := nnn.isLt
      exact .inl ⟨nnn, hi, hn, by omega⟩
    · have htop := hs.topOfStack_good (State.sp_pos_of_handlerError_ret he)
      rw [State.nextPc_ret] at hg ⊢
      exact .inr (.inl ⟨rfl, by omega⟩)
  · rcases s.nextPc_of_not_transfer htr with hn | ⟨hn, hskip⟩
    · exact .inr (.inr (.inl ⟨by omega, by omega⟩))
    · exact .inr (.inr (.inr ⟨hn, by omega, hskip⟩))

/-- In each of R106's cases, in any state, the next PC is illegal. -/
theorem State.not_goodPc_nextPc {s : State} {i : Instr}
    (h : (∃ nnn : Addr, (i = .jump nnn ∨ i = .call nnn) ∧ nnn.toNat % 2 = 1) ∨
      (i = .ret ∧ s.topOfStack = 4096) ∨
      (s.pc.toNat = 4094 ∧ ¬IsTransfer i) ∨
      (s.pc.toNat = 4092 ∧ s.nextPc i = s.pc.toNat + 4)) : ¬GoodPc (s.nextPc i) := by
  rcases h with ⟨nnn, hi, hodd⟩ | ⟨rfl, htop⟩ | ⟨hpc, htr⟩ | ⟨hpc, hn⟩
  · rw [s.nextPc_of_jump_or_call hi]
    omega
  · rw [State.nextPc_ret]
    omega
  · rcases s.nextPc_of_not_transfer htr with hn | ⟨hn, -⟩ <;> omega
  · omega

/-- In a running state an error of kind ProgramCounter is the PC check's, on the next PC. -/
theorem exec_programCounter_error {s t : State} {i : Instr} {value : Nat} {w a : Word} (h0 : s.fault = none)
    (h : exec i s = .next t) (ht : t.fault = some (.outOfBoundsAccess .programCounter value w a)) :
    s.handlerError i = none ∧ ¬GoodPc (s.nextPc i) ∧ s.nextPc i = value := by
  rcases exec_cases h with ⟨kind, v, hf, rfl⟩ | ⟨-, -, rfl⟩
  · obtain ⟨rfl, rfl, -, -⟩ : kind = .programCounter ∧ v = value ∧ _ ∧ _ := by simpa [State.errorRecord] using ht
    exact State.firstError_eq_programCounter.1 hf
  · simp [h0] at ht

/-- Settles O21: an error of the PC check is an illegal next PC, which the invariant allows only in R106's cases; and in
each of those cases the next PC is illegal. -/
theorem pcErrorsAreTheListedCases : Obligations.PcErrorsAreTheListedCases := by
  refine ⟨fun s t i value w a hs h0 h ht => ?_, fun s i he h => ?_⟩
  · obtain ⟨he, hg, rfl⟩ := exec_programCounter_error h0 h ht
    exact hs.not_goodPc_cases he hg
  · have hg : ¬GoodPc (s.nextPc i) := State.not_goodPc_nextPc <| by
      refine h.imp_right (Or.imp_right (Or.imp_left fun ⟨hpc, hj, hc, hr⟩ => ⟨hpc, ?_⟩))
      rintro (⟨nnn, hi | hi⟩ | hi)
      · exact hj nnn hi
      · exact hc nnn hi
      · exact hr hi
    exact ⟨_, exec_of_firstError (State.firstError_of_handler he hg), rfl⟩

end Sys2Proof.Machine
end

section
/-! PROOFS. jump, call and return (41_control_flow.md): what each answers, and that a call and the return that pops its
slot pair up (rule R123). -/

namespace Sys2Proof.Machine

/-! ### Decoding a word given as a number, and Execute by the next PC -/

/-- The number the encoder's formula gives decodes to the instruction. -/
theorem decode_ofNat_of_toNat_encode {i : Instr} {n : Nat} (h : (encode i).toNat = n) :
    decode (BitVec.ofNat 16 n) = some i := by
  rw [← h, BitVec.ofNat_toNat, BitVec.setWidth_eq, decode_encode]

/-- An instruction whose own check passes commits its writes and a legal next PC. -/
theorem exec_of_good_next {s : State} {i : Instr} (he : s.handlerError i = none) (hg : GoodPc (s.nextPc i)) :
    exec i s = .next ((effect s i).setPc (s.nextPc i)) :=
  exec_of_no_error (State.firstError_eq_none.2 ⟨he, hg⟩)

/-- An instruction whose own check passes records an illegal next PC (R106). -/
theorem exec_of_bad_next {s : State} {i : Instr} (he : s.handlerError i = none) (hg : ¬GoodPc (s.nextPc i)) :
    exec i s = .next (s.setFault (s.errorRecord .programCounter (s.nextPc i))) :=
  exec_of_firstError (State.firstError_of_handler he hg)

/-- An instruction whose own check fails records that, whatever its next PC (R224). -/
theorem exec_of_handlerError {s : State} {i : Instr} {kind : AccessKind} {value : Nat}
    (he : s.handlerError i = some (kind, value)) : exec i s = .next (s.setFault (s.errorRecord kind value)) :=
  exec_of_firstError (by rw [State.firstError, he])

/-- Every even 12-bit address is a legal PC (R121). -/
theorem goodPc_toNat_addr (nnn : Addr) : GoodPc nnn.toNat ↔ nnn.toNat % 2 = 0 := by
  have := nnn.isLt
  omega

/-! ### The stack instructions' checks and writes -/

theorem State.handlerError_call_eq_none {s : State} {nnn : Addr} : s.handlerError (.call nnn) = none ↔ s.sp.val < 16 := by
  have := s.sp.isLt
  simp [State.handlerError]
  omega

theorem State.handlerError_ret_of_pos {s : State} (h : 0 < s.sp.val) : s.handlerError .ret = none :=
  if_neg h.ne'

/-- With room on the stack a call pushes `PC + 2` (R122). -/
theorem effect_call {s : State} (nnn : Addr) (h : s.sp.val < 16) :
    effect s (.call nnn) = { s with stack := s.stack.set s.sp.val (BitVec.ofNat 16 s.pcNext),
                                    sp := ⟨s.sp.val + 1, by omega⟩ } := by
  rw [effect, State.push_room _ h, Option.getD_some]

/-- With a slot on the stack a return takes it off (R120). -/
theorem effect_ret {s : State} (h : 0 < s.sp.val) : effect s .ret = { s with sp := ⟨s.sp.val - 1, by omega⟩ } := by
  simp [effect, State.pop_some h]

/-- The slot a call pushes holds the address after the call. -/
theorem effect_call_pushed_slot {s : State} (nnn : Addr) (h : s.sp.val < 16) :
    (effect s (.call nnn)).stack[s.sp.val]? = some (s.pc + 2#16) := by
  rw [effect_call nnn h, Vector.getElem?_set_self, State.pcNext, BitVec.ofNat_add, BitVec.ofNat_toNat,
    BitVec.setWidth_eq]

/-- A slot other than the one at SP is written by no instruction (R27). -/
theorem effect_slot_ne (s : State) (i : Instr) {n : Nat} (hn : n ≠ s.sp.val) :
    (effect s i).stack[n]? = s.stack[n]? := by
  by_cases hc : ∃ nnn, i = .call nnn
  · obtain ⟨nnn, rfl⟩ := hc
    rcases s.push_cases (a := BitVec.ofNat 16 s.pcNext) with ⟨_, hp⟩ | ⟨_, hp⟩
    · simp [effect, hp]
    · simp [effect, hp, Vector.getElem?_set_ne, hn.symm]
  · rw [effect_stack s (not_exists.1 hc)]

theorem State.topOfStack_of_getElem? {s : State} {a : Word} (h : s.stack[s.sp.val - 1]? = some a) :
    s.topOfStack = a.toNat := by
  rw [State.topOfStack, h, Option.getD_some]

/-! ### One instruction -/

/-- Settles O27: jump checks nothing itself and writes nothing but PC, so the PC check of `nnn` decides. -/
theorem jumpGoesToItsAddress : Obligations.JumpGoesToItsAddress := by
  refine fun nnn s => ⟨decode_ofNat_of_toNat_encode (toNat_encode_jump nnn), fun heven => ?_, fun hodd => ?_⟩
  · have hg : GoodPc (s.nextPc (.jump nnn)) := (goodPc_toNat_addr nnn).2 heven
    exact ⟨_, exec_of_good_next rfl hg, toNat_ofNat_of_good hg, rfl⟩
  · have hg : ¬GoodPc (s.nextPc (.jump nnn)) := mt (goodPc_toNat_addr nnn).1 (by omega)
    exact ⟨_, exec_of_bad_next rfl hg, rfl⟩

/-- Settles O28: the overflow check comes before the PC check of `nnn`, and only a call that passes both pushes. -/
theorem callPushesTheNextAddress : Obligations.CallPushesTheNextAddress := by
  refine fun nnn s => ⟨decode_ofNat_of_toNat_encode (toNat_encode_call nnn), fun hfull => ?_, fun hroom hodd => ?_,
    fun hroom heven => ?_⟩
  · exact ⟨_, exec_of_handlerError (if_pos hfull), rfl⟩
  · have hg : ¬GoodPc (s.nextPc (.call nnn)) := mt (goodPc_toNat_addr nnn).1 (by omega)
    exact ⟨_, exec_of_bad_next (State.handlerError_call_eq_none.2 hroom) hg, rfl⟩
  · have hg : GoodPc (s.nextPc (.call nnn)) := (goodPc_toNat_addr nnn).2 heven
    refine ⟨_, exec_of_good_next (State.handlerError_call_eq_none.2 hroom) hg, toNat_ofNat_of_good hg, ?_,
      effect_call_pushed_slot nnn hroom, fun k hk => effect_slot_ne s _ hk, ?_⟩
    · simp [effect_call nnn hroom]
    · rw [effect_call nnn hroom]
      rfl

/-- Settles O29: the decoder ignores bits 11..8; the underflow check comes first, then the PC check of the popped
address. -/
theorem returnPopsTheStack : Obligations.ReturnPopsTheStack := by
  refine ⟨by decide, fun s => ⟨fun hempty => ?_, fun a hpos htop => ?_⟩⟩
  · exact ⟨_, exec_of_handlerError (if_pos hempty), rfl⟩
  · have he : s.handlerError .ret = none := State.handlerError_ret_of_pos hpos
    obtain hn : s.nextPc .ret = a.toNat := State.topOfStack_of_getElem? htop
    rw [← hn]
    refine ⟨fun hg => ⟨_, exec_of_good_next he hg, toNat_ofNat_of_good hg, ?_, ?_⟩,
      fun hg => ⟨_, exec_of_bad_next he hg, rfl⟩⟩
    · simp [effect_ret hpos]
      omega
    · rw [effect_ret hpos]
      rfl

/-! ### Runs of committed cycles -/

theorem runWhile_succ {ok : State → Bool} {k : Nat} {s u : State} (h : runWhile ok (k + 1) s = some u) :
    ok s = true ∧ ∃ t, step s = .next t ∧ t.fault = none ∧ runWhile ok k t = some u := by
  rw [runWhile] at h
  split at h
  · rename_i hok
    split at h
    · rename_i t ht
      split at h
      · exact ⟨hok, t, ht, by simpa using ‹t.fault.isNone = true›, h⟩
      · cases h
    · cases h
  · cases h

/-- What every committed cycle under `ok` keeps holds after the run, and the run ends with no FAULT. -/
theorem runWhile_induction {ok : State → Bool} {P : State → Prop}
    (hstep : ∀ s t, s.fault = none → ok s = true → step s = .next t → t.fault = none → P s → P t) {k : Nat} {s u : State}
    (h0 : s.fault = none) (hs : P s) (h : runWhile ok k s = some u) : u.fault = none ∧ P u := by
  induction k generalizing s with
  | zero => exact Option.some.inj h ▸ ⟨h0, hs⟩
  | succ k ih =>
    obtain ⟨hok, t, ht, ht0, hrest⟩ := runWhile_succ h
    exact ih ht0 (hstep s t h0 hok ht ht0 hs) hrest

/-- A running core commits the instruction at PC when it has no error, by the stages of R111. -/
theorem step_of_good_next {s : State} {i : Instr} (h0 : s.fault = none) (hi : s.nextInstr = some i)
    (he : s.sampleInputs.handlerError i = none) (hg : GoodPc (s.sampleInputs.nextPc i)) :
    step s = .next ((effect s.sampleInputs i).setPc (s.sampleInputs.nextPc i)).finishCycle := by
  obtain ⟨w, hw, hd⟩ := Option.bind_eq_some_iff.1 hi
  rw [step_fetched h0 hw, runWord_decoded hd, exec_of_good_next he hg, finishResult]

/-! ### Call and return -/

/-- A slot below SP outlives any committed cycle: a call writes the slot at SP, nothing else writes one. -/
theorem step_keeps_slot {s t : State} {n : Nat} (h0 : s.fault = none) (hn : n < s.sp.val) (h : step s = .next t)
    (ht : t.fault = none) : t.stack[n]? = s.stack[n]? := by
  obtain ⟨i, -, -, -, rfl⟩ := step_committed h0 h ht
  have hslot := effect_slot_ne s.sampleInputs i (n := n) (by simp; omega)
  simpa using hslot

/-- A committed call leaves the address after it in the slot it pushed. -/
theorem step_call_pushed_slot {nnn : Addr} {s t : State} (h0 : s.fault = none) (hi : s.nextInstr = some (.call nnn))
    (h : step s = .next t) (ht : t.fault = none) : t.stack[s.sp.val]? = some (s.pc + 2#16) := by
  obtain ⟨i, hi', he, -, rfl⟩ := step_committed h0 h ht
  obtain rfl : .call nnn = i := Option.some.inj (hi.symm.trans hi')
  have hslot := effect_call_pushed_slot nnn (State.handlerError_call_eq_none.1 he)
  simpa using hslot

/-- A running return with a legal address `a` on top of the stack goes there and pops it. -/
theorem step_ret {s : State} {a : Word} (h0 : s.fault = none) (hi : s.nextInstr = some .ret) (hpos : 0 < s.sp.val)
    (htop : s.stack[s.sp.val - 1]? = some a) (hg : GoodPc a.toNat) :
    ∃ t, step s = .next t ∧ t.fault = none ∧ t.pc = a ∧ t.sp.val = s.sp.val - 1 := by
  have hn : s.sampleInputs.nextPc .ret = a.toNat := State.topOfStack_of_getElem? (by simpa using htop)
  have hpos' : 0 < s.sampleInputs.sp.val := by simpa using hpos
  refine ⟨_, step_of_good_next h0 hi (State.handlerError_ret_of_pos hpos') (hn ▸ hg), ?_, ?_, ?_⟩
  · simpa using h0
  · simp [hn]
  · simp [effect_ret hpos']

/-- Settles O30: the call's slot holds the address after the call, the cycles between leave it, being below SP, and the
return takes its next PC from it. -/
theorem callThenMatchingReturnResumes : Obligations.CallThenMatchingReturnResumes := by
  intro nnn k s t u h0 hcall hst ht hrun husp hret hgood
  have hslot : t.stack[s.sp.val]? = some (s.pc + 2#16) := step_call_pushed_slot h0 hcall hst ht
  obtain ⟨hu, huslot⟩ : u.fault = none ∧ u.stack[s.sp.val]? = some (s.pc + 2#16) :=
    runWhile_induction (P := fun q => q.stack[s.sp.val]? = some (s.pc + 2#16))
      (fun _ _ hp hok hpq hq hkept => (step_keeps_slot hp (of_decide_eq_true hok) hpq hq).trans hkept) ht hslot hrun
  have hpc : (s.pc + 2#16).toNat = s.pc.toNat + 2 := by
    rw [BitVec.toNat_add, BitVec.toNat_ofNat]
    omega
  obtain ⟨r, hr, hr0, hrpc, hrsp⟩ := step_ret hu hret (by omega) (by simpa [husp] using huslot) (hpc ▸ hgood)
  exact ⟨r, hr, hr0, hrpc ▸ hpc, Fin.ext (by omega)⟩

end Sys2Proof.Machine
end

section
/-! PROOFS. The conditional skips (42_skips.md): a skip writes nothing but PC, so what it answers follows from its own
check and its next PC. -/

namespace Sys2Proof.Machine

/-! ### A skip's next PC and check -/

/-- R130's pseudocode. -/
theorem State.nextPc_skipEqImm (s : State) (x : Reg) (kk : Byte) : s.nextPc (.skipEqImm x kk) =
    if (s.reg x).toNat = kk.toNat then s.pc.toNat + 4 else s.pc.toNat + 2 := by
  simp only [State.nextPc, BitVec.toNat_inj]

/-- R131's pseudocode. -/
theorem State.nextPc_skipNeImm (s : State) (x : Reg) (kk : Byte) : s.nextPc (.skipNeImm x kk) =
    if (s.reg x).toNat ≠ kk.toNat then s.pc.toNat + 4 else s.pc.toNat + 2 := by
  simp only [State.nextPc, ne_eq, ite_not, BitVec.toNat_inj]

/-- A key number below 16 reads its bit of the snapshot (R31). -/
theorem State.pressed_of_lt {s : State} {k : Nat} (h : k < 16) : s.pressed k = s.keys[k] := by
  rw [State.pressed, Vector.getElem?_eq_getElem h, Option.getD_some]

/-- R132's pseudocode, below 16. -/
theorem State.nextPc_skipKeyPressed {s : State} {x : Reg} (h : (s.reg x).toNat < 16) :
    s.nextPc (.skipKeyPressed x) = if s.keys[(s.reg x).toNat] = true then s.pc.toNat + 4 else s.pc.toNat + 2 := by
  rw [State.nextPc, State.pressed_of_lt h]

/-- R133's pseudocode, below 16. -/
theorem State.nextPc_skipKeyNotPressed {s : State} {x : Reg} (h : (s.reg x).toNat < 16) :
    s.nextPc (.skipKeyNotPressed x) = if s.keys[(s.reg x).toNat] = false then s.pc.toNat + 4 else s.pc.toNat + 2 := by
  rw [State.nextPc, State.pressed_of_lt h]
  cases s.keys[(s.reg x).toNat] <;> rfl

/-! ### Execute -/

/-- An instruction that passes its own check and writes nothing moves PC alone, or records an illegal next PC (R106). -/
theorem exec_of_effect_self {s : State} {i : Instr} {next : Nat} (he : s.handlerError i = none) (hw : effect s i = s)
    (hn : s.nextPc i = next) :
    (GoodPc next → ∃ t, exec i s = .next t ∧ t.pc.toNat = next ∧ t = { s with pc := t.pc }) ∧
    (¬GoodPc next → ∃ t, exec i s = .next t ∧ t.fault = some (s.errorRecord .programCounter next)) := by
  subst hn
  refine ⟨fun hg => ⟨_, exec_of_good_next he hg, toNat_ofNat_of_good hg, ?_⟩,
    fun hg => ⟨_, exec_of_bad_next he hg, rfl⟩⟩
  rw [hw]
  rfl

/-- Settles O31: neither skip checks anything itself, and their next PCs are R130's and R131's. -/
theorem immediateSkips : Obligations.ImmediateSkips := fun x kk s =>
  ⟨decode_ofNat_of_toNat_encode (toNat_encode_skipEqImm x kk),
    decode_ofNat_of_toNat_encode (toNat_encode_skipNeImm x kk),
    fun _ hnext => exec_of_effect_self rfl rfl ((s.nextPc_skipEqImm x kk).trans hnext.symm),
    fun _ hnext => exec_of_effect_self rfl rfl ((s.nextPc_skipNeImm x kk).trans hnext.symm)⟩

/-- Settles O32: the key check comes first (R134); past it the key numbered `V[x]` chooses the next PC. -/
theorem keySkips : Obligations.KeySkips := by
  refine fun x s => ⟨decode_ofNat_of_toNat_encode (toNat_encode_skipKeyPressed x),
    decode_ofNat_of_toNat_encode (toNat_encode_skipKeyNotPressed x), fun hbad => ?_, fun hkey next => ?_⟩
  · exact ⟨⟨_, exec_of_handlerError (if_pos hbad), rfl⟩, ⟨_, exec_of_handlerError (if_pos hbad), rfl⟩⟩
  · have hnot : ¬15 < (s.reg x).toNat := by omega
    exact ⟨fun hnext => exec_of_effect_self (if_neg hnot) rfl ((State.nextPc_skipKeyPressed hkey).trans hnext.symm),
      fun hnext => exec_of_effect_self (if_neg hnot) rfl ((State.nextPc_skipKeyNotPressed hkey).trans hnext.symm)⟩

end Sys2Proof.Machine
end

section
/-! PROOFS. The register and arithmetic instructions (43_register_alu.md): they write registers and PC alone and check
nothing themselves, so each answer is its register writes with `PC + 2`. -/

namespace Sys2Proof.Machine

/-! ### The frame of register writes -/

theorem RegisterFrame.refl (written : List Reg) (s : State) : RegisterFrame written s s :=
  ⟨fun _ _ => rfl, fun _ => rfl, rfl⟩

theorem RegisterFrame.writeReg {written : List Reg} {s t : State} (h : RegisterFrame written s t) {x : Reg}
    (hx : x ∈ written) (b : Byte) : RegisterFrame written s (t.writeReg x b) := by
  obtain ⟨hreg, hmem, ht⟩ := h
  refine ⟨fun r hr => ?_, hmem, congrArg (State.writeReg · x b) ht⟩
  have hne : r ≠ x := fun h => hr (h ▸ hx)
  rw [State.reg_writeReg, if_neg hne, hreg r hr]

theorem RegisterFrame.setPc {written : List Reg} {s t : State} (h : RegisterFrame written s t) (n : Nat) :
    RegisterFrame written s (t.setPc n) := by
  obtain ⟨hreg, hmem, ht⟩ := h
  exact ⟨fun r hr => (t.setPc_reg n r).trans (hreg r hr), hmem, congrArg (State.setPc · n) ht⟩

/-! ### Execute of an instruction that writes registers -/

section Execute

variable {s : State} {i : Instr} (hg : GoodPc (s.pc.toNat + 2)) (he : s.handlerError i = none)
  (hn : s.nextPc i = s.pc.toNat + 2)
include hg he hn

/-- An instruction that checks nothing, goes to a legal `PC + 2` and writes only registers commits those writes. -/
theorem exec_of_registerFrame {written : List Reg} (hw : RegisterFrame written s (effect s i)) :
    ∃ t, exec i s = .next t ∧ (∀ r, t.reg r = (effect s i).reg r) ∧ t.pc.toNat = s.pc.toNat + 2 ∧
      RegisterFrame written s t := by
  rw [← hn] at hg ⊢
  exact ⟨_, exec_of_good_next he hg, (effect s i).setPc_reg _, toNat_ofNat_of_good hg, hw.setPc _⟩

/-- The same for an instruction whose only write is `V[x] <- b`. -/
theorem exec_of_writeReg {x : Reg} {b : Byte} (hw : effect s i = s.writeReg x b) :
    ∃ t, exec i s = .next t ∧ t.reg x = b ∧ t.pc.toNat = s.pc.toNat + 2 ∧ RegisterFrame [x] s t := by
  have hframe : RegisterFrame [x] s (effect s i) := hw ▸ (RegisterFrame.refl [x] s).writeReg (by simp) b
  obtain ⟨t, ht, hreg, hpc, hframe⟩ := exec_of_registerFrame hg he hn hframe
  exact ⟨t, ht, by simp [hreg, hw], hpc, hframe⟩

end Execute

/-! ### One result, no flag -/

/-- Settles O33: each of the four is one register write, with `PC + 2`. -/
theorem moveAddAndLogicResults : Obligations.MoveAddAndLogicResults := by
  refine fun x y kk s hg => ⟨⟨decode_ofNat_of_toNat_encode (toNat_encode_loadImm x kk), ?_⟩,
    ⟨decode_ofNat_of_toNat_encode (toNat_encode_addImm x kk), ?_⟩,
    ⟨decode_ofNat_of_toNat_encode (toNat_encode_copy x y), ?_⟩,
    ⟨decode_ofNat_of_toNat_encode (toNat_encode_and x y), ?_⟩⟩
  · exact exec_of_writeReg hg rfl rfl rfl
  · obtain ⟨t, ht, hx, hrest⟩ := exec_of_writeReg (i := .addImm x kk) hg rfl rfl rfl
    exact ⟨t, ht, by rw [hx, BitVec.toNat_add], hrest⟩
  · exact exec_of_writeReg hg rfl rfl rfl
  · obtain ⟨t, ht, hx, hrest⟩ := exec_of_writeReg (i := .and x y) hg rfl rfl rfl
    exact ⟨t, ht, fun k => by rw [hx, BitVec.getLsbD_and], hrest⟩

/-- Settles O36: random-and is one register write, of RAND masked by `kk`. -/
theorem randomAndMasksTheRandomByte : Obligations.RandomAndMasksTheRandomByte := by
  refine fun x kk s hg => ⟨decode_ofNat_of_toNat_encode (toNat_encode_randomAnd x kk), ?_⟩
  obtain ⟨t, ht, hx, hrest⟩ := exec_of_writeReg (i := .randomAnd x kk) hg rfl rfl rfl
  refine ⟨t, ht, fun k => by rw [hx, BitVec.getLsbD_and], ?_, hrest⟩
  simp [hx, BitVec.and_assoc]

/-! ### The flag's value and the registers after add-carry and sub-flag -/

theorem toNat_flagByte (p : Prop) [Decidable p] : (flagByte (decide p)).toNat = if p then 1 else 0 := by
  by_cases hp : p <;> simp [flagByte, hp]

theorem toNat_carryFlag (a b : Byte) : (carryFlag a b).toNat = if a.toNat + b.toNat > 255 then 1 else 0 :=
  toNat_flagByte _

theorem toNat_greaterFlag (a b : Byte) : (greaterFlag a b).toNat = if a.toNat > b.toNat then 1 else 0 :=
  toNat_flagByte _

/-- A difference reduced modulo 256 (R147). -/
theorem toNat_sub_byte (a b : Byte) : (a - b).toNat = (a.toNat + 256 - b.toNat) % 256 := by
  rw [BitVec.toNat_sub]
  congr 1
  omega

/-- VF is written last, so it holds the carry also where it is the destination (R144). -/
@[simp] theorem State.reg_addCarry (s : State) (x y r : Reg) : (s.addCarry x y).reg r =
    if r = flagReg then carryFlag (s.reg x) (s.reg y)
    else if r = x then BitVec.ofNat 8 (exactSum (s.reg x) (s.reg y)) else s.reg r := by
  simp [State.addCarry]

@[simp] theorem State.reg_subFlagFirst (s : State) (x y r : Reg) : (s.subFlagFirst x y).reg r =
    if r = flagReg then greaterFlag (s.reg x) (s.reg y) else s.reg r := by
  simp [State.subFlagFirst]

@[simp] theorem State.reg_subSecond (s : State) (x y r : Reg) : (s.subSecond x y).reg r =
    if r = x then s.reg x - s.reg y else s.reg r := by
  simp [State.subSecond]

theorem registerFrame_addCarry (s : State) (x y : Reg) : RegisterFrame [x, 15] s (s.addCarry x y) :=
  ((RegisterFrame.refl [x, 15] s).writeReg (by simp) _).writeReg (by simp) _

theorem registerFrame_subFlag (s : State) (x y : Reg) :
    RegisterFrame [x, 15] s ((s.subFlagFirst x y).subSecond x y) :=
  ((RegisterFrame.refl [x, 15] s).writeReg (by simp) _).writeReg (by simp) _

/-! ### A result and VF -/

/-- Settles O34: the flag write comes last, so only VF can lose the sum. -/
theorem addCarryResultAndFlag : Obligations.AddCarryResultAndFlag := by
  refine fun x y s hg => ⟨decode_ofNat_of_toNat_encode (toNat_encode_addCarry x y), ?_⟩
  obtain ⟨t, ht, hreg, hrest⟩ :=
    exec_of_registerFrame (i := .addCarry x y) hg rfl rfl (registerFrame_addCarry s x y)
  refine ⟨t, ht, fun hx => ?_, ?_, hrest⟩
  · have hx : x ≠ flagReg := Fin.ne_of_val_ne hx
    simp [hreg, effect, hx, exactSum]
  · rw [hreg, effect, State.reg_addCarry, if_pos rfl, toNat_carryFlag]

/-- Settles O35: the subtraction reads the registers after the flag write, so each corner replaces the operand that is
VF by the flag (D13). -/
theorem subFlagResultAndFlag : Obligations.SubFlagResultAndFlag := by
  refine fun x y s hg => ⟨decode_ofNat_of_toNat_encode (toNat_encode_subFlag x y), fun flag hflag => ?_⟩
  rw [← toNat_greaterFlag] at hflag
  subst hflag
  obtain ⟨t, ht, hreg, hrest⟩ :=
    exec_of_registerFrame (i := .subFlag x y) hg rfl rfl (registerFrame_subFlag s x y)
  have hdiff : t.reg x = (s.subFlagFirst x y).reg x - (s.subFlagFirst x y).reg y := by
    rw [hreg, effect, State.reg_subSecond, if_pos rfl]
  simp only [State.reg_subFlagFirst] at hdiff
  refine ⟨t, ht, fun hx => ?_, fun hx hy => ?_, fun hx hy => ?_, fun hx hy => ?_, fun hx hy => ?_, hrest⟩
  · have hne : flagReg ≠ x := Ne.symm (Fin.ne_of_val_ne hx)
    simp [hreg, effect, hne]
  · rw [hdiff, if_neg (Fin.ne_of_val_ne hx), if_neg (Fin.ne_of_val_ne hy), toNat_sub_byte]
  · rw [hdiff, if_neg (Fin.ne_of_val_ne hx), if_pos (Fin.ext hy), toNat_sub_byte]
  · obtain rfl : x = flagReg := Fin.ext hx
    rw [hdiff, if_pos rfl, if_neg (Fin.ne_of_val_ne hy), toNat_sub_byte]
  · obtain rfl : x = flagReg := Fin.ext hx
    rw [hdiff, if_pos rfl, if_pos (Fin.ext hy), BitVec.sub_self]
    rfl

end Sys2Proof.Machine
end

section
/-! PROOFS. The index and memory instructions (44_index_memory.md): each writes one element of the state and PC, and the
two that touch memory check the highest address of their block first (rule R164). -/

namespace Sys2Proof.Machine

/-! ### The index -/

/-- An instruction that checks nothing, goes to a legal `PC + 2` and writes only `I` commits that write. -/
theorem exec_of_setIndex {s : State} {i : Instr} {w : Word} {n : Nat} (hg : GoodPc (s.pc.toNat + 2))
    (he : s.handlerError i = none) (hn : s.nextPc i = s.pc.toNat + 2) (hw : effect s i = s.setIndex w)
    (hval : w.toNat = n) :
    ∃ t, exec i s = .next t ∧ t.index.toNat = n ∧ t.pc.toNat = s.pc.toNat + 2 ∧
      (∀ a, t.mem.byteAt a = s.mem.byteAt a) ∧ t = { s with index := t.index, pc := t.pc } := by
  rw [← hn] at hg ⊢
  refine ⟨_, exec_of_good_next he hg, ?_, toNat_ofNat_of_good hg, fun a => ?_, ?_⟩
  · simpa [hw] using hval
  · simp [hw]
  · rw [hw]
    rfl

/-- A byte times 5 fits `I`, so font-address wraps nothing (R161). -/
theorem toNat_byte_mul_five (b : Byte) : (BitVec.ofNat 16 (b.toNat * 5)).toNat = b.toNat * 5 := by
  have := b.isLt
  exact Nat.mod_eq_of_lt (by omega)

/-- Settles O37: each of the two is one write of `I`, with `PC + 2`, and neither value is cut to fit. -/
theorem indexResults : Obligations.IndexResults := fun x nnn s hg =>
  ⟨⟨decode_ofNat_of_toNat_encode (toNat_encode_loadIndex nnn),
      exec_of_setIndex hg rfl rfl rfl (BitVec.toNat_setWidth_of_le (by decide))⟩,
    ⟨decode_ofNat_of_toNat_encode (toNat_encode_fontAddress x),
      exec_of_setIndex hg rfl rfl rfl (toNat_byte_mul_five (s.reg x))⟩⟩

/-! ### The store -/

/-- A byte write changes nothing but memory (R52). -/
theorem State.memWrite_eq_setMem (s : State) (a : Nat) (b : Byte) : s.memWrite a b = s.setMem (s.memWrite a b).mem := by
  unfold State.memWrite
  split <;> rfl

/-- bcd-store's writes change nothing but memory (R162). -/
theorem State.storeBcd_eq_setMem (s : State) (b : Byte) : s.storeBcd b = s.setMem (s.storeBcd b).mem := by
  rw [State.storeBcd, State.memWrite_eq_setMem, State.memWrite_eq_setMem (s.memWrite _ _), State.memWrite_eq_setMem s]
  rfl

/-- The three digits stand at the effective addresses, hundreds at the lowest (R162, R54). -/
theorem State.toNat_digits_storeBcd {s : State} (hm : s.mem.wf = true) (b : Byte) (h : s.index.toNat + 2 < 4096) :
    ((s.storeBcd b).mem.byteAt (s.effAddr 0)).toNat = b.toNat / 100 ∧
      ((s.storeBcd b).mem.byteAt (s.effAddr 1)).toNat = b.toNat / 10 % 10 ∧
      ((s.storeBcd b).mem.byteAt (s.effAddr 2)).toNat = b.toNat % 10 := by
  simp [State.toNat_byteAt_storeBcd hm b h]

/-- Settles O38: past the check of `I + 2` the three writes put the digits in place, which make up `V[x]` again. -/
theorem bcdStoreWritesThreeDigits : Obligations.BcdStoreWritesThreeDigits := by
  refine fun x s hm => ⟨decode_ofNat_of_toNat_encode (toNat_encode_bcdStore x), fun hout => ?_, fun hin hg => ?_⟩
  · exact ⟨_, exec_of_handlerError (if_pos hout), rfl⟩
  · have hidx : s.index.toNat + 2 < 4096 := by omega
    obtain ⟨h0, h1, h2⟩ := State.toNat_digits_storeBcd hm (s.reg x) hidx
    refine ⟨_, exec_of_good_next (i := .bcdStore x) (if_neg (by omega)) hg, h0, h1, h2, ?_, fun a ha0 ha1 ha2 => ?_,
      toNat_ofNat_of_good hg, congrArg (State.setPc · _) (s.storeBcd_eq_setMem _)⟩
    · simp only [State.setPc_mem, effect, h0, h1, h2]
      omega
    · rw [State.setPc_mem, effect, State.byteAt_storeBcd hm _ hidx, if_neg ha0, if_neg ha1, if_neg ha2]

/-! ### The block load -/

/-- The block load writes registers alone (R163); `State.reg_loadRegs` says which. -/
theorem registerFrame_loadRegs (s : State) (n : Nat) : RegisterFrame (List.finRange 16) s (s.loadRegs n) := by
  induction n with
  | zero => exact RegisterFrame.refl _ s
  | succ k ih => exact ih.writeReg (List.mem_finRange _) _

/-- Settles O39: past the check of `I + x` reg-load is the block load of `x + 1` registers, with `PC + 2`. -/
theorem regLoadFillsTheBlock : Obligations.RegLoadFillsTheBlock := by
  refine fun x s => ⟨decode_ofNat_of_toNat_encode (toNat_encode_regLoad x), fun hout => ?_, fun hin hg => ?_⟩
  · exact ⟨_, exec_of_handlerError (if_pos hout), rfl⟩
  · obtain ⟨t, ht, hreg, hpc, -, hmem, hrest⟩ := exec_of_registerFrame (i := .regLoad x) hg (if_neg (by omega)) rfl
      (registerFrame_loadRegs s (x.val + 1))
    simp only [effect, State.reg_loadRegs s (Nat.succ_le_of_lt x.isLt)] at hreg
    refine ⟨t, ht, fun r hr => ?_, fun r hr => ?_, hmem, hpc, hrest⟩
    · rw [hreg, if_pos (by omega), State.byteAtIndex]
    · rw [hreg, if_neg (by omega)]

end Sys2Proof.Machine
end

section
/-! PROOFS. The framebuffer engine (45_display.md): the targets of a sprite are distinct (rule R184), so compositing inverts
each of them once and its collision is about the image before it; clear-screen and draw follow. -/

namespace Sys2Proof.Machine

/-! ### The targets are distinct -/

/-- The 8 columns of a sprite row stay apart when wrapped at 64 (R181). -/
theorem nodup_rowTargets (ox oy dy : Nat) (b : Byte) : (rowTargets ox oy dy b).Nodup := by
  refine List.Nodup.map_on (fun i hi j hj hij => ?_) (List.nodup_range.filter _)
  have hi8 : i < 8 := List.mem_range.1 (List.mem_of_mem_filter hi)
  have hj8 : j < 8 := List.mem_range.1 (List.mem_of_mem_filter hj)
  have hcol : (ox + i) % 64 = (ox + j) % 64 := congrArg (fun p : Pixel => p.2.val) hij
  omega

/-- Up to 32 rows stay apart when wrapped at 32 (R181). -/
theorem nodup_spriteTargets (ox oy dy : Nat) {rows : List Byte} (h : rows.length ≤ 32) :
    (spriteTargets ox oy dy rows).Nodup := by
  induction rows generalizing dy with
  | nil => exact List.nodup_nil
  | cons b rest ih =>
    rw [List.length_cons] at h
    refine (nodup_rowTargets ox oy dy b).append (ih (dy + 1) (by omega)) fun p hfirst hrest => ?_
    obtain ⟨_, -, -, hrow, -⟩ := mem_rowTargets.1 hfirst
    obtain ⟨k, _, hk, -, -, hrow', -⟩ := mem_spriteTargets.1 hrest
    omega

/-- Settles O44: a sprite of at most 15 rows has at most the 32 rows that stay apart. -/
theorem noPixelIsHitTwice : Obligations.NoPixelIsHitTwice := fun ox oy _ h =>
  nodup_spriteTargets ox oy 0 (by omega)

/-! ### Compositing a sprite -/

section Composite

variable (ox oy : Nat) {rows : List Byte} (h : rows.length ≤ 15) (fb : Framebuffer)
include h

/-- Compositing inverts the targets and leaves the other pixels (R182). -/
theorem lit_composite (p : Pixel) :
    (composite ox oy rows fb).1.lit p = (fb.lit p ^^ decide (p ∈ spriteTargets ox oy 0 rows)) :=
  lit_foldl_compositeBit (noPixelIsHitTwice ox oy rows h) fb false p

/-- The collision is 1 when a target was lit before the draw (R183). -/
theorem composite_collides_iff :
    (composite ox oy rows fb).2 = true ↔ ∃ p ∈ spriteTargets ox oy 0 rows, fb.lit p = true := by
  rw [composite, hit_foldl_compositeBit (noPixelIsHitTwice ox oy rows h), Bool.false_or, List.any_eq_true]

/-- Inverting the same targets twice restores the image. -/
theorem composite_composite : (composite ox oy rows (composite ox oy rows fb).1).1 = fb :=
  Framebuffer.ext_lit fun p => by simp [lit_composite ox oy h]

/-- The second of two equal composites collides when a target was unlit before the first. -/
theorem composite_composite_collides_iff :
    (composite ox oy rows (composite ox oy rows fb).1).2 = true ↔
      ∃ p ∈ spriteTargets ox oy 0 rows, fb.lit p = false := by
  rw [composite_collides_iff ox oy h]
  refine exists_congr fun p => and_congr_right fun hp => ?_
  simp [lit_composite ox oy h, hp]

end Composite

/-- The flag is the collision, so 1 or 0 (R187, D4). -/
theorem collisionFlag_eq_one_iff (hit : Bool) : collisionFlag hit = 1#8 ↔ hit = true := by
  cases hit <;> decide

/-- The number of rows of a draw keeps its sprite within the 15 rows of R180. -/
theorem State.length_spriteRows_le (s : State) (n : Fin 16) : (s.spriteRows n.val).length ≤ 15 := by
  rw [State.spriteRows_length]
  omega

/-! ### draw's check and writes -/

/-- The state after a draw that raises nothing: the sprite drawn with its origin in `V[x]`, `V[y]`, and `PC + 2` (R187). -/
def State.drawn (s : State) (x y : Reg) (n : Fin 16) : State :=
  (s.drawSprite (s.reg x).toNat (s.reg y).toNat (s.spriteRows n.val)).setPc (s.pc.toNat + 2)

section Draw

variable {s : State} {n : Fin 16} (x y : Reg)

theorem State.handlerError_draw_of_inMemory (h : s.SpriteInMemory n.val) : s.handlerError (.draw x y n) = none :=
  if_neg (by omega)

theorem State.handlerError_draw_of_not_inMemory (h : ¬s.SpriteInMemory n.val) :
    s.handlerError (.draw x y n) = some (.memory, s.index.toNat + n.val - 1) :=
  if_pos (by omega)

/-- A draw whose sprite lies in memory commits with a legal `PC + 2`. -/
theorem exec_draw (h : s.SpriteInMemory n.val) (hg : GoodPc (s.pc.toNat + 2)) :
    exec (.draw x y n) s = .next (s.drawn x y n) :=
  exec_of_good_next (State.handlerError_draw_of_inMemory x y h) hg

theorem State.drawn_fb :
    (s.drawn x y n).fb = (composite (s.reg x).toNat (s.reg y).toNat (s.spriteRows n.val) s.fb).1 := rfl

theorem State.drawn_flag : (s.drawn x y n).reg 15 =
    collisionFlag (composite (s.reg x).toNat (s.reg y).toNat (s.spriteRows n.val) s.fb).2 := by
  rw [State.drawn, State.setPc_reg, State.reg_drawSprite, if_pos rfl]

/-- The only register draw writes is VF. -/
theorem State.drawn_reg {r : Reg} (hr : r.val ≠ 15) : (s.drawn x y n).reg r = s.reg r := by
  rw [State.drawn, State.setPc_reg, State.reg_drawSprite, if_neg (Fin.ne_of_val_ne hr)]

/-- draw leaves memory and `I`, so the sprite it read. -/
theorem State.drawn_spriteRows (k : Nat) : (s.drawn x y n).spriteRows k = s.spriteRows k := rfl

end Draw

/-! ### One instruction -/

/-- Settles O42: clear-screen writes the blank image and DIRTY, with `PC + 2`; the decoder ignores bits 11..8. -/
theorem clearScreenBlanksTheFramebuffer : Obligations.ClearScreenBlanksTheFramebuffer :=
  ⟨by decide, fun _ hg => ⟨_, exec_of_good_next (i := .clearScreen) rfl hg, Framebuffer.lit_blank, rfl, fun _ => rfl,
    toNat_ofNat_of_good hg, rfl⟩⟩

/-- Settles O43: the lit pixels of the sprite are the targets of its composite, each inverted once, and VF is the
collision. -/
theorem drawXorsEveryPixelOfTheSprite : Obligations.DrawXorsEveryPixelOfTheSprite := by
  refine fun x y n s => ⟨decode_ofNat_of_toNat_encode (toNat_encode_draw x y n), fun hout => ?_, fun hin hg => ?_⟩
  · exact ⟨_, exec_of_handlerError (State.handlerError_draw_of_not_inMemory x y hout), rfl⟩
  · have hlen := s.length_spriteRows_le n
    have hcollides := composite_collides_iff (s.reg x).toNat (s.reg y).toNat hlen s.fb
    simp only [State.mem_spriteTargets] at hcollides
    refine ⟨_, exec_draw x y hin hg, fun p hp => ?_, fun p hp => ?_, fun hlit => ?_, fun hunlit => ?_,
      fun r hr => State.drawn_reg x y hr, rfl, fun _ => rfl, toNat_ofNat_of_good hg, rfl⟩
    · simp [State.drawn_fb, lit_composite _ _ hlen, State.mem_spriteTargets, hp]
    · simp [State.drawn_fb, lit_composite _ _ hlen, State.mem_spriteTargets, hp]
    · rw [State.drawn_flag, collisionFlag_eq_one_iff, hcollides]
      exact hlit
    · have hnone : ¬(composite (s.reg x).toNat (s.reg y).toNat (s.spriteRows n.val) s.fb).2 = true := by
        simpa [hcollides] using hunlit
      rw [State.drawn_flag, Bool.eq_false_of_not_eq_true hnone]
      rfl

/-! ### The same draw twice -/

/-- Settles O45: with x and y other than VF the second draw composites the same sprite at the same origin, so it inverts
the same targets again. -/
theorem drawingTwiceRestoresTheFramebuffer : Obligations.DrawingTwiceRestoresTheFramebuffer := by
  intro x y n s hx hy hin hg hg4
  have hlen := s.length_spriteRows_le n
  have hg' : GoodPc ((s.drawn x y n).pc.toNat + 2) := by
    have hpc : (s.drawn x y n).pc.toNat = s.pc.toNat + 2 := toNat_ofNat_of_good hg
    rwa [hpc]
  refine ⟨s.drawn x y n, (s.drawn x y n).drawn x y n, exec_draw x y hin hg, exec_draw x y hin hg', ?_, rfl, ?_⟩
  · rw [State.drawn_fb, State.drawn_reg x y hx, State.drawn_reg x y hy, State.drawn_spriteRows, State.drawn_fb,
      composite_composite _ _ hlen]
  · rw [State.drawn_flag, State.drawn_reg x y hx, State.drawn_reg x y hy, State.drawn_spriteRows, State.drawn_fb,
      collisionFlag_eq_one_iff, composite_composite_collides_iff _ _ hlen]
    simp only [State.mem_spriteTargets]

end Sys2Proof.Machine
end

section
/-! PROOFS. The timers (46_timers.md): what a handler leaves in DT and ST, the one tick of a committed cycle (rules R200,
R201), and the delay read back after a run of cycles (rule R206). -/

namespace Sys2Proof.Machine

/-! ### What a handler leaves in the timers -/

/-- DT is written by set-delay alone (R28). -/
theorem effect_dt (s : State) {i : Instr} (h : ∀ x, i ≠ .setDelay x) : (effect s i).dt = s.dt := by
  cases i with
  | ret => rw [effect_ret_frame]
  | call nnn => rw [effect_call_frame]
  | setDelay x => exact absurd rfl (h x)
  | _ => simp [effect]

/-- ST is written by set-sound alone (R28). -/
theorem effect_st (s : State) {i : Instr} (h : ∀ x, i ≠ .setSound x) : (effect s i).st = s.st := by
  cases i with
  | ret => rw [effect_ret_frame]
  | call nnn => rw [effect_call_frame]
  | setSound x => exact absurd rfl (h x)
  | _ => simp [effect]

/-! ### The tick of one cycle -/

/-- Settles O22: a cycle that raises only samples its inputs and records the fault; one that commits ticks what its handler
left in each timer. -/
theorem timersTickOncePerCommittedCycle : Obligations.TimersTickOncePerCommittedCycle := by
  refine fun s t h0 h => ⟨fun ht => ?_, fun ht => ?_⟩
  · obtain ⟨_, _, -, -, -, rfl⟩ := step_raised h0 h ht
    simp
  · obtain ⟨i, hi, -, -, rfl⟩ := step_committed h0 h ht
    refine ⟨i, hi, ?_, ?_⟩
    · split
      · simp [tick_toNat, effect]
      · rename_i hother
        simp [tick_toNat, effect_dt _ hother]
    · split
      · simp [tick_toNat, effect]
      · rename_i hother
        simp [tick_toNat, effect_st _ hother]

/-! ### The delay over a run -/

section Committed

variable {s t : State} (h0 : s.fault = none) (h : step s = .next t) (ht : t.fault = none)
include h0 h ht

/-- A committed set-delay ends with the value less its own tick (R206). -/
theorem step_setDelay {x : Reg} (hi : s.nextInstr = some (.setDelay x)) : t.dt.toNat = (s.reg x).toNat - 1 := by
  obtain ⟨i, hi', hdt, -⟩ := (timersTickOncePerCommittedCycle s t h0 h).2 ht
  obtain rfl : .setDelay x = i := Option.some.inj (hi.symm.trans hi')
  exact hdt

/-- Any other committed cycle counts DT down by one. -/
theorem step_dt_of_leavesDelay (hok : s.leavesDelay = true) : t.dt.toNat = s.dt.toNat - 1 := by
  obtain ⟨i, hi, hdt, -⟩ := (timersTickOncePerCommittedCycle s t h0 h).2 ht
  rw [hdt]
  split
  · simp [State.leavesDelay, hi] at hok
  · rfl

/-- A committed get-delay reads DT before its own tick (R202). -/
theorem step_getDelay {y : Reg} (hi : s.nextInstr = some (.getDelay y)) : t.reg y = s.dt := by
  obtain ⟨i, hi', -, -, rfl⟩ := step_committed h0 h ht
  obtain rfl : .getDelay y = i := Option.some.inj (hi.symm.trans hi')
  simp [effect]

end Committed

/-- Without a set-delay, `k` committed cycles count DT down by `k`, floored at 0. -/
theorem runWhile_leavesDelay_dt {k : Nat} {s u : State} (h0 : s.fault = none)
    (h : runWhile State.leavesDelay k s = some u) : u.fault = none ∧ u.dt.toNat = s.dt.toNat - k := by
  induction k generalizing s with
  | zero => exact Option.some.inj h ▸ ⟨h0, rfl⟩
  | succ k ih =>
    obtain ⟨hok, t, hst, ht, hrest⟩ := runWhile_succ h
    obtain ⟨hu, hdt⟩ := ih ht hrest
    have htick := step_dt_of_leavesDelay h0 hst ht hok
    exact ⟨hu, by omega⟩

/-- Settles O23: set-delay's own cycle takes one off the value, each cycle between one more, and the read comes before the
tick of its cycle. -/
theorem delayReadsBackCountedDown : Obligations.DelayReadsBackCountedDown := by
  intro x y k s s1 u t h0 hset hst hs1 hrun hget hut ht
  obtain ⟨hu, hdt⟩ := runWhile_leavesDelay_dt hs1 hrun
  calc (t.reg y).toNat = u.dt.toNat := congrArg BitVec.toNat (step_getDelay hu hut ht hget)
    _ = s1.dt.toNat - k := hdt
    _ = (s.reg x).toNat - 1 - k := by rw [step_setDelay h0 hst hs1 hset]
    _ = (s.reg x).toNat - (k + 1) := by omega

/-! ### One instruction -/

/-- Settles O46: get-delay is one register write; the two set instructions write their timer and PC alone, and the tick
takes one off the value written. -/
theorem timerInstructionResults : Obligations.TimerInstructionResults := by
  refine fun x s hg => ⟨⟨decode_ofNat_of_toNat_encode (toNat_encode_getDelay x), exec_of_writeReg hg rfl rfl rfl⟩,
    ⟨decode_ofNat_of_toNat_encode (toNat_encode_setDelay x), ?_⟩,
    ⟨decode_ofNat_of_toNat_encode (toNat_encode_setSound x), ?_⟩⟩
  · exact ⟨_, exec_of_good_next (i := .setDelay x) rfl hg, rfl, tick_toNat _, toNat_ofNat_of_good hg, fun _ => rfl, rfl⟩
  · exact ⟨_, exec_of_good_next (i := .setSound x) rfl hg, rfl, tick_toNat _, toNat_ofNat_of_good hg, fun _ => rfl, rfl⟩

end Sys2Proof.Machine
end

section
/-! PROOFS. The state after construction, and loading a ROM (70_reset_and_hazards.md rules R250, R251): what a load
leaves in memory, and what the first step does after an empty one. -/

namespace Sys2Proof.Machine

/-! ### The state after construction -/

/-- Settles O1: nothing is listed in the reset memory, so it reads as the default font, and as 0 past its end. -/
theorem resetIsTheConstructionState : Obligations.ResetIsTheConstructionState :=
  ⟨by decide, fun _ ha => Memory.resetByte_of_le ha, by decide, rfl, rfl, rfl, by decide, rfl, rfl,
    Framebuffer.lit_blank, rfl, rfl, by decide⟩

/-! ### Loading a ROM -/

section Load

variable {s : State} {image : List Byte}

theorem State.loadRom_of_le (h : image.length ≤ 3584) :
    s.loadRom image = some (s.setMem (s.mem.writeBytes 0x200 image)) := if_pos h

theorem State.loadRom_of_lt (h : 3584 < image.length) : s.loadRom image = none := if_neg (Nat.not_le_of_lt h)

/-- The longest ROM image ends where memory does. -/
theorem rom_end_le_memSize (h : image.length ≤ 3584) : 0x200 + image.length ≤ 4096 := by omega

variable (hm : s.mem.wf = true) (h : image.length ≤ 3584)
include hm h

theorem byteAt_loaded {k : Nat} (hk : k < image.length) :
    (s.mem.writeBytes 0x200 image).byteAt (0x200 + k) = image[k] := by
  rw [Memory.byteAt_writeBytes image hm (rom_end_le_memSize h), if_pos ⟨by omega, by omega⟩, Nat.add_sub_cancel_left]
  simp [hk]

theorem byteAt_outside_loaded {a : Nat} (ha : a < 0x200 ∨ 0x200 + image.length ≤ a) :
    (s.mem.writeBytes 0x200 image).byteAt a = s.mem.byteAt a := by
  rw [Memory.byteAt_writeBytes image hm (rom_end_le_memSize h), if_neg (by omega)]

end Load

/-! ### The first step after an empty ROM -/

/-- The word at the PC after construction lies past every font (R250). -/
theorem State.fetchWord_construct (font : Config.Font) : (State.construct font).fetchWord = some 0x0000#16 := by
  have hzero : ∀ a, 80 ≤ a → (State.construct font).mem.byteAt a = 0 := (constructionTakesAnyFont.1 font).2.1
  have hpc : (State.construct font).pc.toNat = 0x200 := rfl
  rw [State.fetchWord_eq (by omega), hpc, hzero 0x200 (by omega), hzero (0x200 + 1) (by omega)]
  rfl

/-- The word 0x0000 is unsupported (R79), so the first step only records it. -/
theorem step_construct (font : Config.Font) : step (State.construct font) =
    .next ((State.construct font).sampleInputs.setFault (.unknownOpcode 0x0000#16 0x200#16)) :=
  step_unsupported rfl (State.fetchWord_construct font) (by decide)

/-- Settles O6: the image is consecutive writes inside memory; an empty one leaves the construction state. -/
theorem romLoadIsByteForByteOrAnError : Obligations.RomLoadIsByteForByteOrAnError := by
  refine ⟨fun font image h => ?_, fun _ _ h => State.loadRom_of_lt h, fun font => ?_⟩
  · have hm := State.wf_construct_mem font
    exact ⟨_, State.loadRom_of_le h, fun _ hk => byteAt_loaded hm h hk, fun _ ha => byteAt_outside_loaded hm h ha, rfl,
      (State.construct_inv font).setMem (Memory.wf_writeBytes image hm (rom_end_le_memSize h))⟩
  · exact ⟨State.construct font, _, State.loadRom_of_le (Nat.zero_le _), step_construct font, rfl⟩

end Sys2Proof.Machine
end

section
/-! PROOFS. The input collaborator (60_exceptions.md rule R232): the key map and a key transition. -/

namespace Sys2Proof.Machine

/-- A transition writes one bit of the snapshot, that of the key's logical key. -/
theorem Keypad.getElem_transition (keys : Keypad) (key : Config.PhysicalKey) (pressed : Bool) (k : Fin 16) :
    (keys.transition key pressed)[k.val] = if k = Config.logicalKey key then pressed else keys[k.val] := by
  simp only [Keypad.transition, Vector.getElem_set, Fin.val_inj, eq_comm]

/-- Settles O47. -/
theorem keyTransitionsFollowTheTable : Obligations.KeyTransitionsFollowTheTable :=
  ⟨by decide, Keypad.getElem_transition⟩

end Sys2Proof.Machine
end
